-- ==== Sys2Proof/Word.lean ====
section
/-! DEFINITION. The word types of spec/00_scope.md R10 and R14. -/

namespace Sys2Proof

/-- An SPI byte (u8). -/
abbrev Byte := BitVec 8

/-- A host request word, and every u32 and i32 of the spec (an i32 is its two's-complement pattern, R10). -/
abbrev Word := BitVec 32

/-- The bit pattern of an IEEE 754 binary64 value (R14: `bits64`). -/
abbrev F64 := BitVec 64

/-- +0.0. -/
abbrev f64Zero : F64 := 0#64

/-- QNAN of R14. -/
abbrev f64QNaN : F64 := 0x7FF8000000000000#64

end Sys2Proof
end

