-- ==== Sys2Proof/Config.lean ====
section
/-! DEFINITION. What an implementation fixes (spec/00_scope.md R20, R21) and the free values of the model. -/

namespace Sys2Proof

/-- The parameters of R20 that a model takes as arguments. They stand in State, so that a statement over every
state holds for every value of them; no operation changes them (R21). The `T_*` delays are in µs, and they are whole
numbers of µs by the model's choice: R20 gives their unit and not their type (DESIGN CHOICE, log 21). -/
structure Params where
  waitBudget : BitVec 24
  expectedId : BitVec 4
  drateCode  : Vector Byte 16
  tPre       : Nat
  tTurn      : Nat
  tSettle    : Nat
  tSyncGap   : Nat
  tWakeGap   : Nat
  deriving DecidableEq, Repr

/-- FREE VALUE (log 2): the MISO byte of the n-th byte exchange, where State lists no byte for it (R87). -/
opaque Config.freeMiso : Nat → Byte

/-- FREE VALUE (log 2): the DRDY_N level of the n-th poll, where State lists no level for it (R87). -/
opaque Config.freeDrdy : Nat → Bool

/-- FREE VALUE (log 3): the OPEN parameter P_WAIT_BUDGET before its lower bound 1 is applied. -/
opaque Config.freeWaitBudget : BitVec 24

/-- FREE VALUE (log 3): T_PRE, OPEN in R20. A whole number of µs by the model's choice (DESIGN CHOICE, log 21). -/
opaque Config.tPre : Nat

/-- FREE VALUE (log 3): T_TURN, OPEN in R20. A whole number of µs as T_PRE is (DESIGN CHOICE, log 21). -/
opaque Config.tTurn : Nat

/-- FREE VALUE (log 3): T_SETTLE, OPEN in R20. A whole number of µs as T_PRE is (DESIGN CHOICE, log 21). -/
opaque Config.tSettle : Nat

/-- FREE VALUE (log 3): T_SYNC_GAP, OPEN in R20. A whole number of µs as T_PRE is (DESIGN CHOICE, log 21). -/
opaque Config.tSyncGap : Nat

/-- FREE VALUE (log 3): T_WAKE_GAP, OPEN in R20. A whole number of µs as T_PRE is (DESIGN CHOICE, log 21). -/
opaque Config.tWakeGap : Nat

/-- FREE VALUE (log 6): the request word that faultWord records when a WREG(dev) frame of two to four data bytes
raises a fault; no op of the spec sends such a frame alone, so the spec gives it no word. -/
opaque Config.burstRequestWord : BitVec 4 → List Byte → Word

/-- P_WAIT_BUDGET: any value with 1 ≤ v ≤ 2^24 − 1 (R20). -/
def Config.waitBudget : BitVec 24 :=
  if Config.freeWaitBudget = 0#24 then 1#24 else Config.freeWaitBudget

/-- The default DRATE_CODE table of spec/30_encoding.md R105. -/
def Config.drateDefault : Vector Byte 16 :=
  #v[0xF0#8, 0xE0#8, 0xD0#8, 0xC0#8, 0xB0#8, 0xA1#8, 0x92#8, 0x82#8,
     0x72#8, 0x63#8, 0x53#8, 0x43#8, 0x33#8, 0x23#8, 0x13#8, 0x03#8]

/-- The parameters of the machine at reset: the spec's defaults, and free values where R20 says OPEN. -/
def Config.params : Params where
  waitBudget := Config.waitBudget
  expectedId := 3#4
  drateCode  := Config.drateDefault
  tPre       := Config.tPre
  tTurn      := Config.tTurn
  tSettle    := Config.tSettle
  tSyncGap   := Config.tSyncGap
  tWakeGap   := Config.tWakeGap

/-- DUMMY (R20): the MOSI byte sent while receiving. -/
def Config.dummy : Byte := 0xFF#8

/-- REG_MAX (R20): the highest device register id. -/
def Config.regMax : Nat := 10

end Sys2Proof
end

