-- ==== Sys2Proof/Syntax.lean ====
section
/-! DEFINITION. One constructor per row of spec/opcode_table.json: the twelve host ops of spec/30_encoding.md R111,
then the fourteen device commands of R102 (log 5 says what it is to run one). -/

namespace Sys2Proof

/-- Operand names are those of the formats R112–R120 and of R101. -/
inductive Instr where
  | init
  | wreg (id : BitVec 4) (val : Byte)
  | rreg (id : BitVec 4)
  | cmd (c : Byte)
  | config (g : BitVec 3) (r : BitVec 4)
  | selch (ch : BitVec 4)
  | syncwake
  | wait (budget : BitVec 24)
  | rdsample (acc : Bool)
  | stclr
  | stupd (v : BitVec 24)
  | stfin
  | wakeup
  | rdata
  | rdatac
  | sdatac
  | selfcal
  | selfocal
  | selfgcal
  | sysocal
  | sysgcal
  | sync
  | standby
  | devReset
  | rregDev (id : BitVec 4)
  | wregDev (id : BitVec 4) (data : List Byte)
  deriving DecidableEq, Repr

end Sys2Proof
end

