-- ==== Sys2Proof/WellFormed.lean ====
section
/-! DEFINITION. Which terms of Instr are instructions. Every value of a host op's fields is a well-formed word
(spec/30_encoding.md R121: an illegal operand value is an ILLEGAL_ARG at run time); the one check is that a device
register write carries 1 to 4 data bytes (spec/40_register_protocol.md R140). -/

namespace Sys2Proof

/-- R140: `1 <= len(data) <= 4`. -/
def burstLengthOk (data : List Byte) : Bool :=
  decide (1 ≤ data.length) && decide (data.length ≤ 4)

/-- The check of the whole syntax. -/
def Instr.wellFormed : Instr → Bool
  | .wregDev _ data => burstLengthOk data
  | .init | .wreg _ _ | .rreg _ | .cmd _ | .config _ _ | .selch _ | .syncwake | .wait _ | .rdsample _
  | .stclr | .stupd _ | .stfin | .wakeup | .rdata | .rdatac | .sdatac | .selfcal | .selfocal | .selfgcal
  | .sysocal | .sysgcal | .sync | .standby | .devReset | .rregDev _ => true

end Sys2Proof
end

