-- ==== Sys2Proof/Decode.lean ====
section
/-! DEFINITION. The two encodings of spec/30_encoding.md: host request words (R110–R122) and device command frames
(R100–R102), each with its decoder, and the encoder back. -/

namespace Sys2Proof

/-- An instruction as it is presented: a host request word, or the MOSI bytes of a device command frame. -/
inductive Encoded where
  | word (w : Word)
  | frame (bytes : List Byte)
  deriving DecidableEq, Repr

/-- Why a presentation is no instruction. -/
inductive DecodeError where
  /-- R121: the opcode is 0x00 or 0x0D–0xFF. -/
  | illegalOpcode
  /-- R121: a bit that the op's format does not assign is set. -/
  | reservedBits
  /-- The frame has no byte. -/
  | emptyFrame
  /-- R102: the first byte is in no row of the device command table. -/
  | unknownCommand
  /-- R101: the frame ends before its count byte or its data bytes. -/
  | truncatedFrame
  /-- R101, R140, R146: the count byte is not one the engine's primitives send. -/
  | badCount
  /-- R100: bytes follow the command. -/
  | trailingBytes
  deriving DecidableEq, Repr

/-- R121: an op, if the bits that its format does not assign are 0. -/
def ifReservedZero (reservedZero : Bool) (i : Instr) : Except DecodeError Instr :=
  if reservedZero then .ok i else .error .reservedBits

/-- R122: the op of a word with the given opcode, the fields and reserved bits as in R112–R120. -/
def decodeFields (opc : Byte) (w : Word) : Except DecodeError Instr :=
  match opc with
  | 0x01#8 => ifReservedZero (w.extractLsb' 0 24 == 0#24) .init
  | 0x02#8 =>
    ifReservedZero (w.extractLsb' 20 4 == 0#4 && w.extractLsb' 8 8 == 0#8)
      (.wreg (w.extractLsb' 16 4) (w.extractLsb' 0 8))
  | 0x03#8 => ifReservedZero (w.extractLsb' 20 4 == 0#4 && w.extractLsb' 0 16 == 0#16) (.rreg (w.extractLsb' 16 4))
  | 0x04#8 => ifReservedZero (w.extractLsb' 8 16 == 0#16) (.cmd (w.extractLsb' 0 8))
  | 0x05#8 =>
    ifReservedZero (w.extractLsb' 11 13 == 0#13 && w.extractLsb' 4 4 == 0#4)
      (.config (w.extractLsb' 8 3) (w.extractLsb' 0 4))
  | 0x06#8 => ifReservedZero (w.extractLsb' 4 20 == 0#20) (.selch (w.extractLsb' 0 4))
  | 0x07#8 => ifReservedZero (w.extractLsb' 0 24 == 0#24) .syncwake
  | 0x08#8 => .ok (.wait (w.extractLsb' 0 24))
  | 0x09#8 => ifReservedZero (w.extractLsb' 1 23 == 0#23) (.rdsample (w.getLsbD 0))
  | 0x0A#8 => ifReservedZero (w.extractLsb' 0 24 == 0#24) .stclr
  | 0x0B#8 => .ok (.stupd (w.extractLsb' 0 24))
  | 0x0C#8 => ifReservedZero (w.extractLsb' 0 24 == 0#24) .stfin
  | _ => .error .illegalOpcode

/-- R122: `decode`, total on every u32. -/
def decodeWord (w : Word) : Except DecodeError Instr := decodeFields (w.extractLsb' 24 8) w

/-- R102: the single-byte (DC1) commands. -/
def decodeSingle (b : Byte) : Except DecodeError Instr :=
  if b = 0x00#8 then .ok .wakeup
  else if b = 0x01#8 then .ok .rdata
  else if b = 0x03#8 then .ok .rdatac
  else if b = 0x0F#8 then .ok .sdatac
  else if b = 0xF0#8 then .ok .selfcal
  else if b = 0xF1#8 then .ok .selfocal
  else if b = 0xF2#8 then .ok .selfgcal
  else if b = 0xF3#8 then .ok .sysocal
  else if b = 0xF4#8 then .ok .sysgcal
  else if b = 0xFC#8 then .ok .sync
  else if b = 0xFD#8 then .ok .standby
  else if b = 0xFE#8 then .ok .devReset
  else .error .unknownCommand

/-- R101: the rest of a register-addressed (DCR) write, after the command byte. The count byte `0000 nnnn` says that
n + 1 data bytes follow; R140 sends at most four. -/
def decodeWriteTail (id : BitVec 4) : List Byte → Except DecodeError (Instr × List Byte)
  | [] => .error .truncatedFrame
  | n :: rest =>
    if 3 < n.toNat then .error .badCount
    else if rest.length < n.toNat + 1 then .error .truncatedFrame
    else .ok (.wregDev id (rest.take (n.toNat + 1)), rest.drop (n.toNat + 1))

/-- R101, R146: the rest of a register-addressed read, after the command byte. The engine's only read frame has the
count byte 0x00 (log 9). -/
def decodeReadTail (id : BitVec 4) : List Byte → Except DecodeError (Instr × List Byte)
  | [] => .error .truncatedFrame
  | n :: rest => if n = 0x00#8 then .ok (.rregDev id, rest) else .error .badCount

/-- R100–R102: the device command at the head of a byte sequence, and the bytes after it. -/
def decodeFrame : List Byte → Except DecodeError (Instr × List Byte)
  | [] => .error .emptyFrame
  | b :: rest =>
    if b.extractLsb' 4 4 = 0x1#4 then decodeReadTail (b.extractLsb' 0 4) rest
    else if b.extractLsb' 4 4 = 0x5#4 then decodeWriteTail (b.extractLsb' 0 4) rest
    else match decodeSingle b with
      | .ok i => .ok (i, rest)
      | .error e => .error e

/-- The decoder: a frame holds exactly one command. -/
def decode : Encoded → Except DecodeError Instr
  | .word w => decodeWord w
  | .frame bytes =>
    match decodeFrame bytes with
    | .ok (i, []) => .ok i
    | .ok (_, _ :: _) => .error .trailingBytes
    | .error e => .error e

/-- R101: byte 1 of the RREG header, `0001 rrrr`, that is 0x10 | id. -/
def rregByte (id : BitVec 4) : Byte := 0x10#8 ||| id.setWidth 8

/-- R101: byte 1 of the WREG header, `0101 rrrr`, that is 0x50 | id. -/
def wregByte (id : BitVec 4) : Byte := 0x50#8 ||| id.setWidth 8

/-- R101: byte 2 of a DCR header for an access of `len` registers, `0000 nnnn` with n = len − 1. -/
def countByte (len : Nat) : Byte := BitVec.ofNat 8 (len - 1)

/-- R110: opcode in [31:24], operand fields in [23:0]. -/
def hostWord (opc : Byte) (fields : Word) : Word := (opc.setWidth 32 <<< 24) ||| fields

/-- A field of a format whose lowest bit is bit `lo` of the word. -/
def fieldAt {n : Nat} (lo : Nat) (v : BitVec n) : Word := v.setWidth 32 <<< lo

/-- The host word of `CMD c` (R115). -/
def cmdWord (c : Byte) : Word := hostWord 0x04#8 (fieldAt 0 c)

/-- The host word of `WREG id, val` (R113). -/
def wregWord (id : BitVec 4) (val : Byte) : Word := hostWord 0x02#8 (fieldAt 16 id ||| fieldAt 0 val)

/-- The host word of `RREG id` (R114). -/
def rregWord (id : BitVec 4) : Word := hostWord 0x03#8 (fieldAt 16 id)

/-- The encoder, from the formats R112–R120 and the device command table R102. -/
def encode : Instr → Encoded
  | .init => .word (hostWord 0x01#8 0#32)
  | .wreg id val => .word (wregWord id val)
  | .rreg id => .word (rregWord id)
  | .cmd c => .word (cmdWord c)
  | .config g r => .word (hostWord 0x05#8 (fieldAt 8 g ||| fieldAt 0 r))
  | .selch ch => .word (hostWord 0x06#8 (fieldAt 0 ch))
  | .syncwake => .word (hostWord 0x07#8 0#32)
  | .wait budget => .word (hostWord 0x08#8 (fieldAt 0 budget))
  | .rdsample acc => .word (hostWord 0x09#8 (fieldAt 0 (BitVec.ofBool acc)))
  | .stclr => .word (hostWord 0x0A#8 0#32)
  | .stupd v => .word (hostWord 0x0B#8 (fieldAt 0 v))
  | .stfin => .word (hostWord 0x0C#8 0#32)
  | .wakeup => .frame [0x00#8]
  | .rdata => .frame [0x01#8]
  | .rdatac => .frame [0x03#8]
  | .sdatac => .frame [0x0F#8]
  | .selfcal => .frame [0xF0#8]
  | .selfocal => .frame [0xF1#8]
  | .selfgcal => .frame [0xF2#8]
  | .sysocal => .frame [0xF3#8]
  | .sysgcal => .frame [0xF4#8]
  | .sync => .frame [0xFC#8]
  | .standby => .frame [0xFD#8]
  | .devReset => .frame [0xFE#8]
  | .rregDev id => .frame [rregByte id, 0x00#8]
  | .wregDev id data => .frame (wregByte id :: countByte data.length :: data)

/-- The request word of the host op that sends the instruction, the word faultWord records (10_state.md R42): for a
host op its own encoding, for a device command the word of the op that sends it (R102, R124; logs 5 and 6). -/
def requestWord : Instr → Word
  | .init => hostWord 0x01#8 0#32
  | .wreg id val => wregWord id val
  | .rreg id => rregWord id
  | .cmd c => cmdWord c
  | .config g r => hostWord 0x05#8 (fieldAt 8 g ||| fieldAt 0 r)
  | .selch ch => hostWord 0x06#8 (fieldAt 0 ch)
  | .syncwake => hostWord 0x07#8 0#32
  | .wait budget => hostWord 0x08#8 (fieldAt 0 budget)
  | .rdsample acc => hostWord 0x09#8 (fieldAt 0 (BitVec.ofBool acc))
  | .stclr => hostWord 0x0A#8 0#32
  | .stupd v => hostWord 0x0B#8 (fieldAt 0 v)
  | .stfin => hostWord 0x0C#8 0#32
  | .wakeup => cmdWord 0x00#8
  | .rdata => cmdWord 0x01#8
  | .rdatac => cmdWord 0x03#8
  | .sdatac => cmdWord 0x0F#8
  | .selfcal => cmdWord 0xF0#8
  | .selfocal => cmdWord 0xF1#8
  | .selfgcal => cmdWord 0xF2#8
  | .sysocal => cmdWord 0xF3#8
  | .sysgcal => cmdWord 0xF4#8
  | .sync => cmdWord 0xFC#8
  | .standby => cmdWord 0xFD#8
  | .devReset => cmdWord 0xFE#8
  | .rregDev id => rregWord id
  | .wregDev id data =>
    match data with
    | [val] => wregWord id val
    | _ => Config.burstRequestWord id data

/-- The operand bytes that spec/opcode_table.json gives no bits, as zeros: the count byte of a read, the count byte
and the one data byte of a write (R101). -/
def padFrame : List Byte → List Byte
  | [] => []
  | [b] =>
    if b.extractLsb' 4 4 = 0x1#4 then [b, 0#8]
    else if b.extractLsb' 4 4 = 0x5#4 then [b, 0#8, 0#8]
    else [b]
  | [b, n] => if b.extractLsb' 4 4 = 0x5#4 then b :: n :: List.replicate (n.toNat + 1) 0#8 else [b, n]
  | bytes => bytes

/-- The bytes of a frame whose first byte is the least significant one of `w`. -/
def bytesOf : Nat → Nat → List Byte
  | 0, _ => []
  | k + 1, w => BitVec.ofNat 8 w :: bytesOf k (w / 256)

/-- What spec/opcode_table.json numbers as an instruction of `nbits` bits: the 32-bit rows are host request words, the
shorter ones begin a device command frame (log 12). -/
def presentTableWord (nbits w : Nat) : Encoded :=
  if nbits = 32 then .word (BitVec.ofNat 32 w) else .frame (padFrame (bytesOf (nbits / 8) w))

/-- The instruction the decoder reads from a table word. -/
def decodeTableWord (nbits w : Nat) : Option Instr :=
  match decode (presentTableWord nbits w) with
  | .ok i => some i
  | .error _ => none

end Sys2Proof
end

