-- ==== Sys2Proof/Machine/State.lean ====
section
/-! DEFINITION. The engine state record of spec/10_state.md R32, the parameters of the model, what the host and the
device have still to supply, and the state after reset (spec/70_reset_and_hazards.md R290). -/

namespace Sys2Proof.Machine

/-- R33: the protocol state (the source's Reset, Idle, Configured, ChannelSelected, ContinuousMode). -/
inductive PState where
  | reset
  | idle
  | configured
  | chsel
  | cont
  deriving DecidableEq, Repr

/-- R12: the kinds of delay request. -/
inductive DelayKind where
  | pre
  | turn
  | settle
  | syncGap
  | wakeGap
  deriving DecidableEq, Repr

/-- R80: the events of the bus trace. A level is true when the pin is 1. -/
inductive Event where
  | csFall
  | csRise
  | xfer (mosi miso : Byte)
  | delay (k : DelayKind)
  | poll (level : Bool)
  | timeout
  deriving DecidableEq, Repr

/-- R31: the response of an op. -/
inductive Status where
  | ok
  | timeout
  | fault
  | halted
  deriving DecidableEq, Repr

/-- R260: the five fault codes of the engine. They are taken, as next states; the type Fault below is something else. -/
inductive FaultCode where
  | illegalOp
  | illegalArg
  | order
  | identity
  | countOvf
  deriving DecidableEq, Repr

/-- R31: what the host does next. `frame` presents a device command row of the opcode table (log 5). -/
inductive HostAction where
  | issue (w : Word)
  | frame (bytes : List Byte)
  | read (i : BitVec 5)
  | rst
  deriving DecidableEq, Repr

/-- Why the MODEL stops with a fault. The engine's own faults (R260) are next states. -/
inductive Fault where
  /-- Raised by execWregDev on a WREG(dev) term whose data is not 1 to 4 bytes (R140), which no decoder makes. Safe:
  no run reaches it (log 14). -/
  | illFormed
  deriving DecidableEq, Repr

/-- Why the MODEL gives no meaning. -/
inductive Refusal where
  /-- Raised by an arm of exec whose instruction has no meaning yet. Safe: the model stops. -/
  | notModelled (mnemonic : String)
  /-- Raised by hostAction for a byte sequence that is no device command of R102, which no rule gives an effect; a
  request word is never refused so. Safe: the model stops (log 8). -/
  | unknownFrame
  deriving DecidableEq, Repr

/-- R32, field by field, with the spec's names; then the parameters of R20 and the model's own fields. -/
structure State where
  /-- R33, R34 -/
  pstate : PState
  /-- R35 -/
  syncPending : Bool
  /-- R36 -/
  syncArmed : Bool
  /-- R39 -/
  cfgGain : BitVec 3
  /-- R39 -/
  cfgRate : BitVec 4
  /-- R39 -/
  cfgChan : BitVec 3
  /-- R40 -/
  lastByte : Byte
  /-- R40, an i32 -/
  lastSample : Word
  /-- R41 -/
  lastWaitTimeout : Bool
  /-- R41 -/
  lastPolls : Word
  /-- R41, R201 -/
  timeoutCount : Word
  /-- R41, R81 -/
  xferCount : Word
  /-- R42: bit c for fault code c -/
  faults : BitVec 5
  /-- R42 -/
  faultWord : Word
  /-- R44 -/
  stCount : Word
  /-- R44 -/
  stMean : F64
  /-- R44 -/
  stM2 : F64
  /-- R44, an i32 -/
  stMin : Word
  /-- R44, an i32 -/
  stMax : Word
  /-- R232 -/
  finCount : Word
  /-- R232 -/
  finMean : F64
  /-- R232 -/
  finVar : F64
  /-- R232 -/
  finStdev : F64
  /-- R232, an i32 -/
  finMin : Word
  /-- R232, an i32 -/
  finMax : Word
  /-- R232, R235, an i32 -/
  finP2P : Word
  /-- R232 -/
  finNonEmpty : Bool
  /-- R232 -/
  finVarValid : Bool
  /-- R43: the level driven on CS_N -/
  csN : Bool
  /-- R43: the level driven on RESET_N -/
  resetN : Bool
  /-- R80, oldest event first -/
  trace : List Event
  /-- R20: fixed when the engine is built; no step changes it (log 3) -/
  params : Params
  /-- The model's own: the host's remaining actions, the next one first (R31, R49; log 1) -/
  program : List HostAction
  /-- The model's own: the response of the last op (R31; log 4) -/
  resp : Option Status
  /-- The model's own: the value on the host read port (R31, R45; log 4) -/
  readData : BitVec 64
  /-- The model's own: the MISO bytes the device supplies next, before the free ones (R87; log 2) -/
  misoIn : List Byte
  /-- The model's own: the DRDY_N levels the device supplies next, before the free ones (R87; log 2) -/
  drdyIn : List Bool
  /-- The model's own: how many MISO bytes have been drawn (log 2) -/
  misoDraws : Nat
  /-- The model's own: how many DRDY_N levels have been drawn (log 2) -/
  drdyDraws : Nat
  deriving DecidableEq, Repr

/-- R290, R291: the machine after reset. The parameters are those of Config; the model's own fields are empty or zero
(logs 1, 2, 4). -/
def State.reset : State where
  pstate := .reset
  syncPending := false
  syncArmed := false
  cfgGain := 0#3
  cfgRate := 0#4
  cfgChan := 0#3
  lastByte := 0x00#8
  lastSample := 0#32
  lastWaitTimeout := false
  lastPolls := 0#32
  timeoutCount := 0#32
  xferCount := 0#32
  faults := 0#5
  faultWord := 0#32
  stCount := 0#32
  stMean := f64Zero
  stM2 := f64Zero
  stMin := 0#32
  stMax := 0#32
  finCount := 0#32
  finMean := f64Zero
  finVar := f64QNaN
  finStdev := f64QNaN
  finMin := 0#32
  finMax := 0#32
  finP2P := 0#32
  finNonEmpty := false
  finVarValid := false
  csN := true
  resetN := true
  trace := []
  params := Config.params
  program := []
  resp := none
  readData := 0#64
  misoIn := []
  drdyIn := []
  misoDraws := 0
  drdyDraws := 0

end Sys2Proof.Machine
end

