-- ==== Sys2Proof/Machine/Binary64.lean ====
section
/-! DEFINITION. IEEE 754 binary64 as spec/00_scope.md R14 and spec/43_statistics.md R230 use it: add, subtract,
multiply, divide, square root and conversion from an integer, each rounded once, to nearest with ties to even. Every
operation computes an exact value on integers, in units of 2^-1074 (the smallest positive value), and narrows it in
f64Round alone. -/

namespace Sys2Proof.Machine

/-- The sign bit. -/
def f64Sign (x : F64) : Bool := x.getLsbD 63

/-- The biased exponent field. -/
def f64Exp (x : F64) : Nat := (x.extractLsb' 52 11).toNat

/-- The fraction field. -/
def f64Frac (x : F64) : Nat := (x.extractLsb' 0 52).toNat

def f64IsNaN (x : F64) : Bool := f64Exp x == 2047 && f64Frac x != 0

def f64IsInf (x : F64) : Bool := f64Exp x == 2047 && f64Frac x == 0

def f64IsZero (x : F64) : Bool := f64Exp x == 0 && f64Frac x == 0

/-- A finite value: neither NaN nor infinite. -/
def f64IsFinite (x : F64) : Bool := f64Exp x != 2047

/-- The significand of a finite value, with its hidden bit. -/
def f64Mant (x : F64) : Nat := if f64Exp x = 0 then f64Frac x else f64Frac x + 2 ^ 52

/-- The scale of a finite value: its magnitude is f64Mant · 2^f64Scale units of 2^-1074. -/
def f64Scale (x : F64) : Nat := f64Exp x - 1

/-- The magnitude of a finite value, in units of 2^-1074. -/
def f64Mag (x : F64) : Nat := f64Mant x * 2 ^ f64Scale x

/-- The exact value of a finite pattern, in units of 2^-1074. -/
def f64Units (x : F64) : Int := if f64Sign x then -(f64Mag x : Int) else (f64Mag x : Int)

/-- One value 1.0, in units of 2^-1074. -/
def f64One : Nat := 2 ^ 1074

/-- A sign and the low 63 bits, given as a number below 2^63. -/
def f64Pack (neg : Bool) (low : Nat) : F64 := BitVec.ofNat 64 (if neg then 2 ^ 63 + low else low)

/-- The low 63 bits of infinity. -/
def f64InfLow : Nat := 0x7FF0000000000000

def f64Inf (neg : Bool) : F64 := f64Pack neg f64InfLow

/-- The exponent of the unit in the last place of a magnitude whose integer part is `q` units. -/
def f64UlpExp (q : Nat) : Nat := if q < 2 ^ 53 then 0 else Nat.log2 q - 52

/-- `num / den` rounded to the nearest integer, ties to even. -/
def roundHalfEven (num den : Nat) : Nat :=
  let m := num / den
  let r := num % den
  if 2 * r < den then m
  else if den < 2 * r then m + 1
  else if m % 2 = 0 then m else m + 1

/-- R230: the magnitude `num / den` units, rounded to nearest with ties to even. With the unit in the last place
2^sh, the significand m (at most 2^53) and the exponent field add up to sh · 2^52 + m, carries included. -/
def f64Round (neg : Bool) (num den : Nat) : F64 :=
  let sh := f64UlpExp (num / den)
  let low := sh * 2 ^ 52 + roundHalfEven num (den * 2 ^ sh)
  f64Pack neg (if low < f64InfLow then low else f64InfLow)

/-- R14: `toF64`. -/
def f64OfInt (i : Int) : F64 := f64Round (decide (i < 0)) (i.natAbs * f64One) 1

def f64Negate (x : F64) : F64 := x ^^^ 0x8000000000000000#64

/-- R14: `+f`. An exact zero sum is +0 unless both operands are negative zeros. NaN results are QNAN (log 10). -/
def f64Add (x y : F64) : F64 :=
  if f64IsNaN x || f64IsNaN y then f64QNaN
  else if f64IsInf x then
    if f64IsInf y && f64Sign x != f64Sign y then f64QNaN else x
  else if f64IsInf y then y
  else
    let z := f64Units x + f64Units y
    if z = 0 then f64Pack (f64Sign x && f64Sign y && f64IsZero x && f64IsZero y) 0
    else f64Round (decide (z < 0)) z.natAbs 1

/-- R14: `-f`. -/
def f64Sub (x y : F64) : F64 := f64Add x (f64Negate y)

/-- R14: `*f`. -/
def f64Mul (x y : F64) : F64 :=
  let neg := f64Sign x != f64Sign y
  if f64IsNaN x || f64IsNaN y then f64QNaN
  else if f64IsInf x || f64IsInf y then
    if f64IsZero x || f64IsZero y then f64QNaN else f64Inf neg
  else f64Round neg (f64Mag x * f64Mag y) f64One

/-- R14: `/f`. -/
def f64Div (x y : F64) : F64 :=
  let neg := f64Sign x != f64Sign y
  if f64IsNaN x || f64IsNaN y then f64QNaN
  else if f64IsInf x then
    if f64IsInf y then f64QNaN else f64Inf neg
  else if f64IsInf y then f64Pack neg 0
  else if f64IsZero y then
    if f64IsZero x then f64QNaN else f64Inf neg
  else f64Round neg (f64Mag x * f64One) (f64Mag y)

/-- The bits of an integer square root, from bit `k − 1` down, added to `r`. -/
def sqrtBits : Nat → Nat → Nat → Nat
  | 0, _, r => r
  | k + 1, n, r =>
    let t := r + 2 ^ k
    sqrtBits k n (if t * t ≤ n then t else r)

/-- The integer square root. -/
def natSqrt (n : Nat) : Nat := sqrtBits (Nat.log2 n / 2 + 1) n 0

/-- R230: `sqrt_f`. The root of mant · 2^scale units is the root of mant · 2^(scale + 1074) units: an even power
2^(2j) is taken out, so that the integer root r of the rest has more than 53 bits, and one more bit says whether the
root was exact. A negative nonzero operand gives QNAN. -/
def f64Sqrt (x : F64) : F64 :=
  if f64IsNaN x then f64QNaN
  else if f64IsZero x then x
  else if f64Sign x then f64QNaN
  else if f64IsInf x then x
  else
    let p := f64Scale x + 1074
    let j := (p - 110) / 2
    let n := f64Mant x * 2 ^ (p - 2 * j)
    let r := natSqrt n
    f64Round false ((2 * r + if r * r = n then 0 else 1) * 2 ^ j) 2

end Sys2Proof.Machine
end

