-- ==== Sys2Proof/Machine/Operands.lean ====
section
/-! DEFINITION. What the operand fields mean: legal operand values (spec/60_exceptions.md R262), the allowed-state
table (spec/10_state.md R37), the bytes an op writes to the device (spec/30_encoding.md R104), and the sample decoder
(spec/42_ready_gate_sampler.md R205). -/

namespace Sys2Proof.Machine

/-- R70, R262: a register id of the device's map. -/
def idOk (id : BitVec 4) : Bool := decide (id.toNat ≤ Config.regMax)

/-- R70, R73, R140: every id of a burst is in the map. -/
def burstIdsOk (id : BitVec 4) (len : Nat) : Bool := decide (id.toNat + len ≤ Config.regMax + 1)

/-- R106, R262: a gain code. -/
def gainOk (g : BitVec 3) : Bool := decide (g.toNat ≤ 6)

/-- R106: the gain that a code stands for. -/
def gainOf (g : BitVec 3) : Nat := 2 ^ g.toNat

/-- R148, R262: the command bytes that CMD accepts. -/
def cmdOk (c : Byte) : Bool :=
  [0x00#8, 0x03#8, 0x0F#8, 0xF0#8, 0xF1#8, 0xF2#8, 0xF3#8, 0xF4#8, 0xFC#8, 0xFD#8, 0xFE#8].contains c

/-- R37: the states IDLE, CONFIGURED and CHSEL. -/
def inConfigStates : PState → Bool
  | .idle | .configured | .chsel => true
  | .reset | .cont => false

/-- R37: the states IDLE, CONFIGURED, CHSEL and CONT. -/
def pastReset : PState → Bool
  | .idle | .configured | .chsel | .cont => true
  | .reset => false

/-- R37: SELCH's states. -/
def inSelectStates : PState → Bool
  | .configured | .chsel => true
  | .reset | .idle | .cont => false

/-- R37, R148: the legal states of a command byte, for 0x03 with syncPending = 0. -/
def cmdStateOk (c : Byte) (p : PState) (syncPending : Bool) : Bool :=
  if c = 0x03#8 then p == .chsel && !syncPending
  else if c = 0x0F#8 || c = 0xFE#8 then pastReset p
  else inConfigStates p

/-- R104: STATUS_CFG, with ORDER 0, ACAL 1, BUFEN 1. -/
def statusCfg : Byte := 0x06#8

/-- R104: MUX_CFG, AIN0 against AINCOM. -/
def muxCfg : Byte := 0x08#8

/-- R104: MUX(ch) = (ch << 4) | 0x08. -/
def muxByte (ch : BitVec 4) : Byte := (ch.setWidth 8 <<< 4) ||| 0x08#8

/-- R104: ADCON(g). -/
def adconByte (g : BitVec 3) : Byte := g.setWidth 8

/-- R105: DRATE_CODE[r]. -/
def drateByte (p : Params) (r : BitVec 4) : Byte := p.drateCode[r.toNat]

/-- R174: the four data bytes of the CONFIG burst. -/
def configBurst (p : Params) (g : BitVec 3) (r : BitVec 4) : List Byte :=
  [statusCfg, muxCfg, adconByte g, drateByte p r]

/-- R170: the ID field of the device's STATUS register. -/
def idField (status : Byte) : BitVec 4 := status.extractLsb' 4 4

/-- R120, R205: `sext_32` of a raw sample. -/
def sext24 (v : BitVec 24) : Word := v.signExtend 32

/-- R205: `Decode24`, big-endian, sign-extended from bit 23. -/
def decode24 (b0 b1 b2 : Byte) : Word := sext24 (b0 ++ b1 ++ b2)

/-- R140: whether a write of `len` registers from `id` on writes MUX, register 1. -/
def writesMux (id : BitVec 4) (len : Nat) : Bool := decide (id.toNat ≤ 1) && decide (1 < id.toNat + len)

end Sys2Proof.Machine
end

