-- ==== Sys2Proof/Machine/Flags.lean ====
section
/-! DEFINITION. The flag and status computations: codes of pstate, response and faults (spec/10_state.md R31, R33,
spec/60_exceptions.md R260), the saturating count (spec/42_ready_gate_sampler.md R201), and the result registers
(spec/10_state.md R45, R46, R48). -/

namespace Sys2Proof.Machine

/-- R33. -/
def pstateCode : PState → BitVec 3
  | .reset => 0#3
  | .idle => 1#3
  | .configured => 2#3
  | .chsel => 3#3
  | .cont => 4#3

/-- R31. -/
def statusCode : Status → BitVec 2
  | .ok => 0#2
  | .timeout => 1#2
  | .fault => 2#2
  | .halted => 3#2

/-- R260: the bit of `faults` that a code sets. -/
def faultBit : FaultCode → BitVec 5
  | .illegalOp => 0b00001#5
  | .illegalArg => 0b00010#5
  | .order => 0b00100#5
  | .identity => 0b01000#5
  | .countOvf => 0b10000#5

/-- R32: `halted` is `faults ≠ 0`. -/
def halted (s : State) : Bool := s.faults != 0#5

/-- R201: `sat_inc`. -/
def satInc (c : Word) : Word := if c = 0xFFFFFFFF#32 then c else c + 1#32

/-- R200: the response of an op whose last ready wait timed out or not. -/
def waitStatus (timedOut : Bool) : Status := if timedOut then .timeout else .ok

/-- A result-register field whose lowest bit is bit `lo`; every bit no field covers reads 0. -/
def fieldAt64 {n : Nat} (lo : Nat) (v : BitVec n) : BitVec 64 := v.setWidth 64 <<< lo

/-- R46: the STATUS result register. -/
def statusRegister (s : State) : BitVec 64 :=
  fieldAt64 0 (pstateCode s.pstate) ||| fieldAt64 3 (BitVec.ofBool s.syncPending) |||
    fieldAt64 4 (BitVec.ofBool s.syncArmed) ||| fieldAt64 5 (BitVec.ofBool s.lastWaitTimeout) |||
    fieldAt64 6 (BitVec.ofBool s.finNonEmpty) ||| fieldAt64 7 (BitVec.ofBool s.finVarValid) |||
    fieldAt64 8 s.faults ||| fieldAt64 13 (BitVec.ofBool (halted s))

/-- R48: the CFG result register. -/
def cfgRegister (s : State) : BitVec 64 := fieldAt64 0 s.cfgGain ||| fieldAt64 4 s.cfgRate ||| fieldAt64 8 s.cfgChan

/-- R45, R47: `read(i)`. -/
def resultRegister (s : State) (i : BitVec 5) : BitVec 64 :=
  match i.toNat with
  | 0 => statusRegister s
  | 1 => cfgRegister s
  | 2 => s.lastByte.setWidth 64
  | 3 => s.lastSample.setWidth 64
  | 4 => s.lastPolls.setWidth 64
  | 5 => s.timeoutCount.setWidth 64
  | 6 => s.faultWord.setWidth 64
  | 7 => s.stCount.setWidth 64
  | 8 => s.stMean
  | 9 => s.stM2
  | 10 => s.stMin.setWidth 64
  | 11 => s.stMax.setWidth 64
  | 12 => s.finCount.setWidth 64
  | 13 => s.finMean
  | 14 => s.finVar
  | 15 => s.finStdev
  | 16 => s.finMin.setWidth 64
  | 17 => s.finMax.setWidth 64
  | 18 => s.finP2P.setWidth 64
  | 19 => s.xferCount.setWidth 64
  | _ => 0#64

end Sys2Proof.Machine
end

