-- ==== Sys2Proof/Machine/Ops.lean ====
section
/-! DEFINITION. The operations every instruction is made of: responses, taking a fault (spec/60_exceptions.md R266,
R267), the bus primitives (spec/00_scope.md R12, spec/20_memory.md R81–R83), the three transactions
(spec/40_register_protocol.md R140, R146, R149, R150), the ready wait (spec/42_ready_gate_sampler.md R200) and the
accumulator (spec/43_statistics.md R231–R233). The engine has no return from a fault but reset (R275). -/

namespace Sys2Proof.Machine

/-- R15, R31: `respond(s)`. -/
def respond (r : Status) (s : State) : State := { s with resp := some r }

/-- R266: `raise F(c)` for the request word w. Every fault is taken here. -/
def raise (c : FaultCode) (w : Word) (s : State) : State :=
  { s with faults := s.faults ||| faultBit c, faultWord := w, resp := some .fault }

/-- R267: the checks of one op in their order, then its execution: halted, operand values, protocol state, count. An
op that does not decode never comes here (hostAction raises ILLEGAL_OP). -/
def checked (w : Word) (argOk stateOk roomOk : Bool) (body : State → State) (s : State) : State :=
  if halted s then respond .halted s
  else if argOk then
    if stateOk then
      if roomOk then body s else raise .countOvf w s
    else raise .order w s
  else raise .illegalArg w s

/-- R12, R80: append one event to the trace. -/
def emit (e : Event) (s : State) : State := { s with trace := s.trace ++ [e] }

/-- R43: the level driven on CS_N. -/
def setCs (level : Bool) (s : State) : State := { s with csN := level }

/-- R12: `CsLow()`. -/
def csLow (s : State) : State := emit .csFall (setCs false s)

/-- R12: `CsHigh()`. -/
def csHigh (s : State) : State := emit .csRise (setCs true s)

/-- R12, R82: `Delay(k)`. -/
def delay (k : DelayKind) (s : State) : State := emit (.delay k) s

/-- R12: `EmitTimeout()`. -/
def emitTimeout (s : State) : State := emit .timeout s

/-- R87: the k-th MISO byte that the device will supply from state s on, the next one being number 0. -/
def misoAt (s : State) (k : Nat) : Byte := (s.misoIn[k]?).getD (Config.freeMiso (s.misoDraws + k))

/-- R87: the k-th DRDY_N level that the device will present from state s on. -/
def drdyAt (s : State) (k : Nat) : Bool := (s.drdyIn[k]?).getD (Config.freeDrdy (s.drdyDraws + k))

/-- One MISO draw is used up. -/
def dropMiso (s : State) : State := { s with misoIn := s.misoIn.tail, misoDraws := s.misoDraws + 1 }

/-- One DRDY_N draw is used up. -/
def dropDrdy (s : State) : State := { s with drdyIn := s.drdyIn.tail, drdyDraws := s.drdyDraws + 1 }

/-- R81: one transfer is counted. -/
def countXfer (s : State) : State := { s with xferCount := s.xferCount + 1#32 }

/-- R81: the effect of `Byte(b)`; the byte it returns is `misoAt s 0`. -/
def byte (b : Byte) (s : State) : State := countXfer (emit (.xfer b (misoAt s 0)) (dropMiso (delay .pre s)))

/-- R81, in order: several bytes. -/
def bytes : List Byte → State → State
  | [], s => s
  | b :: bs, s => bytes bs (byte b s)

/-- R12: the effect of `PollDrdy()`; the level it returns is `drdyAt s 0`. -/
def pollDrdy (s : State) : State := emit (.poll (drdyAt s 0)) (dropDrdy s)

/-- R36: syncArmed at the end of a transaction. -/
def setArmed (a : Bool) (s : State) : State := { s with syncArmed := a }

/-- R35: syncPending. -/
def setPending (p : Bool) (s : State) : State := { s with syncPending := p }

/-- R34: pstate. -/
def setPState (p : PState) (s : State) : State := { s with pstate := p }

/-- R40: lastByte. -/
def setLastByte (b : Byte) (s : State) : State := { s with lastByte := b }

/-- R39: the configuration shadows. -/
def setShadows (g : BitVec 3) (r : BitVec 4) (ch : BitVec 3) (s : State) : State :=
  { s with cfgGain := g, cfgRate := r, cfgChan := ch }

/-- R140: `WregTx(id, data)`. -/
def wregTx (id : BitVec 4) (data : List Byte) (s : State) : State :=
  let t := setArmed false (csHigh (bytes (wregByte id :: countByte data.length :: data) (csLow s)))
  if writesMux id data.length then setPending true t else t

/-- R146: the effect of `RregTx(id)` up to the data byte. -/
def rregHeader (id : BitVec 4) (s : State) : State := delay .turn (byte 0x00#8 (byte (rregByte id) (csLow s)))

/-- R146: `RregTx(id)`: the value read, and the state after. -/
def rregTx (id : BitVec 4) (s : State) : Byte × State :=
  let t := rregHeader id s
  (misoAt t 0, setArmed false (csHigh (byte Config.dummy t)))

/-- R150: `CommandEffect(c, armedBefore)`. -/
def commandEffect (c : Byte) (armedBefore : Bool) (s : State) : State :=
  if c = 0x00#8 then (if armedBefore then setPending false s else s)
  else if c = 0x03#8 then setPState .cont s
  else if c = 0x0F#8 then (if s.pstate = .cont then setPState .chsel s else s)
  else if c = 0xFE#8 then setArmed false (setPending false (setPState .idle s))
  else s

/-- R149: `CmdTx(c)`. -/
def cmdTx (c : Byte) (s : State) : State :=
  commandEffect c s.syncArmed (setArmed (c == 0xFC#8) (csHigh (byte c (csLow s))))

/-- R41: what a ready wait records. -/
def setWait (polls : Word) (timedOut : Bool) (s : State) : State :=
  { s with lastPolls := polls, lastWaitTimeout := timedOut }

/-- R41, R201: one more ready-wait timeout. -/
def bumpTimeouts (s : State) : State := { s with timeoutCount := satInc s.timeoutCount }

/-- R200: how a ready wait that saw DRDY low at its k-th poll ends. -/
def waitReady (k : Nat) (s : State) : State := setWait (BitVec.ofNat 32 k) false s

/-- R200: how a ready wait that used up its budget ends. -/
def waitTimeout (budget : BitVec 24) (s : State) : State :=
  emitTimeout (bumpTimeouts (setWait (budget.setWidth 32) true s))

/-- R200: the polling loop, with `n` polls of the budget left and `k` done. It answers whether the wait timed out. -/
def pollLoop (budget : BitVec 24) : Nat → Nat → State → Bool × State
  | 0, _, s => (true, waitTimeout budget s)
  | n + 1, k, s =>
    if drdyAt s 0 then pollLoop budget n (k + 1) (pollDrdy s)
    else (false, waitReady (k + 1) (pollDrdy s))

/-- R200: `ReadyWait(budget)`. -/
def readyWait (budget : BitVec 24) (s : State) : Bool × State := pollLoop budget budget.toNat 0 (delay .settle s)

/-- R231: `Accumulate(x)`; the caller has checked that the count is not full. -/
def accumulate (x : Word) (s : State) : State :=
  let n := s.stCount + 1#32
  let xf := f64OfInt x.toInt
  let delta := f64Sub xf s.stMean
  let mean1 := f64Add s.stMean (f64Div delta (f64OfInt n.toNat))
  let m2 := f64Add s.stM2 (f64Mul delta (f64Sub xf mean1))
  let mn := if s.stCount = 0#32 then x else if x.slt s.stMin then x else s.stMin
  let mx := if s.stCount = 0#32 then x else if s.stMax.slt x then x else s.stMax
  { s with stCount := n, stMean := mean1, stM2 := m2, stMin := mn, stMax := mx }

/-- R231, R265: whether the count has room for one more sample. -/
def countHasRoom (s : State) : Bool := s.stCount != 0xFFFFFFFF#32

/-- R232: the sample variance of n samples with sum of squares m2, or QNAN. -/
def sampleVariance (n : Word) (m2 : F64) : F64 :=
  if 2 ≤ n.toNat then f64Div m2 (f64OfInt (n - 1#32).toNat) else f64QNaN

/-- R232: the finalize snapshot. -/
def finalize (s : State) : State :=
  { s with
    finCount := s.stCount, finMean := s.stMean, finMin := s.stMin, finMax := s.stMax,
    finP2P := s.stMax - s.stMin,
    finNonEmpty := decide (1 ≤ s.stCount.toNat), finVarValid := decide (2 ≤ s.stCount.toNat),
    finVar := sampleVariance s.stCount s.stM2,
    finStdev := if 2 ≤ s.stCount.toNat then f64Sqrt (sampleVariance s.stCount s.stM2) else f64QNaN }

/-- R233: a new RunStatistics. -/
def clearStats (s : State) : State :=
  { s with stCount := 0#32, stMean := f64Zero, stM2 := f64Zero, stMin := 0#32, stMax := 0#32 }

/-- R211: the three bytes of a sample, in one transaction; no command byte and no turnaround delay. -/
def sampleTx (s : State) : State :=
  setArmed false (csHigh (bytes [Config.dummy, Config.dummy, Config.dummy] (csLow s)))

/-- R211: lastSample. -/
def setLastSample (x : Word) (s : State) : State := { s with lastSample := x }

/-- R290, R291: engine reset. The host's program, the device's draws and the parameters are not the engine's (R50,
R275; log 11). -/
def engineReset (s : State) : State :=
  { State.reset with
    params := s.params, program := s.program, misoIn := s.misoIn, drdyIn := s.drdyIn,
    misoDraws := s.misoDraws, drdyDraws := s.drdyDraws }

end Sys2Proof.Machine
end

