-- ==== Sys2Proof/Machine/RegisterProtocol.lean ====
section
/-! DEFINITION. spec/40_register_protocol.md: WREG (R141), RREG (R145), CMD (R148), over the shared operations that the
device commands of the opcode table use too (Machine/DeviceCommands.lean). -/

namespace Sys2Proof.Machine

/-- R141, R140: a checked register write. `w` is the request word that a fault records. -/
def writeRegisters (w : Word) (id : BitVec 4) (data : List Byte) (s : State) : State :=
  checked w (burstIdsOk id data.length) (inConfigStates s.pstate) true
    (fun s => respond .ok (wregTx id data s)) s

/-- R145, R146: a checked register read. -/
def readRegister (w : Word) (id : BitVec 4) (s : State) : State :=
  checked w (idOk id) (inConfigStates s.pstate) true
    (fun s =>
      let r := rregTx id s
      respond .ok (setLastByte r.1 r.2)) s

/-- R148, R149: a checked command. -/
def sendCommand (w : Word) (c : Byte) (s : State) : State :=
  checked w (cmdOk c) (cmdStateOk c s.pstate s.syncPending) true
    (fun s => respond .ok (cmdTx c s)) s

/-- R141: WREG. -/
def execWreg (id : BitVec 4) (val : Byte) (s : State) : Host.Outcome State Fault Refusal :=
  .next (writeRegisters (requestWord (.wreg id val)) id [val] s)

/-- R145: RREG. -/
def execRreg (id : BitVec 4) (s : State) : Host.Outcome State Fault Refusal :=
  .next (readRegister (requestWord (.rreg id)) id s)

/-- R148: CMD. -/
def execCmd (c : Byte) (s : State) : Host.Outcome State Fault Refusal :=
  .next (sendCommand (requestWord (.cmd c)) c s)

end Sys2Proof.Machine
end

