-- ==== Sys2Proof/Machine/ChannelConfigurator.lean ====
section
/-! DEFINITION. spec/41_channel_configurator.md: INIT (R170), CONFIG (R174), SELCH (R176), SYNCWAKE (R182). -/

namespace Sys2Proof.Machine

/-- R170: INIT after its checks. IDENTITY is raised after the read transaction, whose effects stay (R264). -/
def identify (w : Word) (s : State) : State :=
  let r := readyWait s.params.waitBudget s
  let v := rregTx 0#4 r.2
  let t := setLastByte v.1 v.2
  if idField v.1 = s.params.expectedId then respond (waitStatus r.1) (setPState .idle t)
  else raise .identity w t

/-- R170: INIT. -/
def execInit (s : State) : Host.Outcome State Fault Refusal :=
  .next (checked (requestWord .init) true (s.pstate == .reset) true (identify (requestWord .init)) s)

/-- R174: CONFIG after its checks. -/
def configure (g : BitVec 3) (r : BitVec 4) (s : State) : State :=
  let q := readyWait s.params.waitBudget s
  let t := wregTx 0#4 (configBurst s.params g r) q.2
  respond (waitStatus q.1) (setPState .configured (setShadows g r 0#3 t))

/-- R174: CONFIG. -/
def execConfig (g : BitVec 3) (r : BitVec 4) (s : State) : Host.Outcome State Fault Refusal :=
  .next (checked (requestWord (.config g r)) (gainOk g) (inConfigStates s.pstate) true (configure g r) s)

/-- R176: SELCH after its checks: a channel above 7 has no effect at all. -/
def selectChannel (ch : BitVec 4) (s : State) : State :=
  if 8 ≤ ch.toNat then respond .ok s
  else
    let t := wregTx 1#4 [muxByte ch] s
    respond .ok (setPState .chsel (setShadows t.cfgGain t.cfgRate (ch.extractLsb' 0 3) t))

/-- R176: SELCH. -/
def execSelch (ch : BitVec 4) (s : State) : Host.Outcome State Fault Refusal :=
  .next (checked (requestWord (.selch ch)) true (inSelectStates s.pstate) true (selectChannel ch) s)

/-- R182: SYNCWAKE after its checks. -/
def syncWake (s : State) : State :=
  respond .ok (delay .wakeGap (cmdTx 0x00#8 (delay .syncGap (cmdTx 0xFC#8 s))))

/-- R182: SYNCWAKE. -/
def execSyncwake (s : State) : Host.Outcome State Fault Refusal :=
  .next (checked (requestWord .syncwake) true (inConfigStates s.pstate) true syncWake s)

end Sys2Proof.Machine
end

