-- ==== Sys2Proof/Machine/DeviceCommands.lean ====
section
/-! DEFINITION. The device command rows of the opcode table (spec/30_encoding.md R102, effects R150, R146, R140). The
engine sends such a command only for a host op, so a command runs as the op that sends it: the checks, the transaction
and the effect of `CMD c`, `RREG id` or `WREG id, val` (R102's last column, R124; log 5). -/

namespace Sys2Proof.Machine

/-- WAKEUP; clears syncPending right after a SYNC. -/
def execWakeup (s : State) : Host.Outcome State Fault Refusal :=
  .next (sendCommand (requestWord .wakeup) 0x00#8 s)

/-- RDATA. The engine never sends it: CMD refuses the byte with ILLEGAL_ARG (R102, R148; log 7). -/
def execRdata (s : State) : Host.Outcome State Fault Refusal :=
  .next (sendCommand (requestWord .rdata) 0x01#8 s)

/-- RDATAC, STARTC of R124; enters CONT. -/
def execRdatac (s : State) : Host.Outcome State Fault Refusal :=
  .next (sendCommand (requestWord .rdatac) 0x03#8 s)

/-- SDATAC, STOPC of R124; leaves CONT for CHSEL. -/
def execSdatac (s : State) : Host.Outcome State Fault Refusal :=
  .next (sendCommand (requestWord .sdatac) 0x0F#8 s)

/-- SELFCAL; no engine effect of its own. -/
def execSelfcal (s : State) : Host.Outcome State Fault Refusal :=
  .next (sendCommand (requestWord .selfcal) 0xF0#8 s)

/-- SELFOCAL; no engine effect of its own. -/
def execSelfocal (s : State) : Host.Outcome State Fault Refusal :=
  .next (sendCommand (requestWord .selfocal) 0xF1#8 s)

/-- SELFGCAL; no engine effect of its own. -/
def execSelfgcal (s : State) : Host.Outcome State Fault Refusal :=
  .next (sendCommand (requestWord .selfgcal) 0xF2#8 s)

/-- SYSOCAL; no engine effect of its own. -/
def execSysocal (s : State) : Host.Outcome State Fault Refusal :=
  .next (sendCommand (requestWord .sysocal) 0xF3#8 s)

/-- SYSGCAL; no engine effect of its own. -/
def execSysgcal (s : State) : Host.Outcome State Fault Refusal :=
  .next (sendCommand (requestWord .sysgcal) 0xF4#8 s)

/-- SYNC; sets syncArmed. -/
def execSync (s : State) : Host.Outcome State Fault Refusal :=
  .next (sendCommand (requestWord .sync) 0xFC#8 s)

/-- STANDBY; no engine effect of its own. -/
def execStandby (s : State) : Host.Outcome State Fault Refusal :=
  .next (sendCommand (requestWord .standby) 0xFD#8 s)

/-- RESET, DEVRESET of R124; to IDLE. -/
def execDevReset (s : State) : Host.Outcome State Fault Refusal :=
  .next (sendCommand (requestWord .devReset) 0xFE#8 s)

/-- RREG(dev), R146. -/
def execRregDev (id : BitVec 4) (s : State) : Host.Outcome State Fault Refusal :=
  .next (readRegister (requestWord (.rregDev id)) id s)

/-- WREG(dev), R140, with 1 to 4 data bytes (log 6). A term with another number of bytes is no instruction (log 14). -/
def execWregDev (id : BitVec 4) (data : List Byte) (s : State) : Host.Outcome State Fault Refusal :=
  if burstLengthOk data then .next (writeRegisters (requestWord (.wregDev id data)) id data s)
  else .fault .illFormed

end Sys2Proof.Machine
end

