-- ==== Sys2Proof/Machine/ReadyGateSampler.lean ====
section
/-! DEFINITION. spec/42_ready_gate_sampler.md: WAIT (R202), RDSAMPLE (R211). -/

namespace Sys2Proof.Machine

/-- R202: WAIT after its checks. -/
def waitOp (budget : BitVec 24) (s : State) : State :=
  let r := readyWait budget s
  respond (waitStatus r.1) r.2

/-- R202: WAIT. -/
def execWait (budget : BitVec 24) (s : State) : Host.Outcome State Fault Refusal :=
  .next (checked (requestWord (.wait budget)) true true true (waitOp budget) s)

/-- R211: RDSAMPLE after its checks. The three bytes are draws, whatever DRDY_N last read. -/
def readSample (acc : Bool) (s : State) : State :=
  let x := decode24 (misoAt s 0) (misoAt s 1) (misoAt s 2)
  let t := setLastSample x (sampleTx s)
  respond .ok (if acc then accumulate x t else t)

/-- R211: RDSAMPLE. -/
def execRdsample (acc : Bool) (s : State) : Host.Outcome State Fault Refusal :=
  .next (checked (requestWord (.rdsample acc)) true (s.pstate == .cont) (!acc || countHasRoom s) (readSample acc) s)

end Sys2Proof.Machine
end

