-- ==== Sys2Proof/Machine/Statistics.lean ====
section
/-! DEFINITION. spec/43_statistics.md: STCLR (R233), STUPD (R231), STFIN (R232). -/

namespace Sys2Proof.Machine

/-- R233: STCLR. -/
def execStclr (s : State) : Host.Outcome State Fault Refusal :=
  .next (checked (requestWord .stclr) true true true (fun s => respond .ok (clearStats s)) s)

/-- R231: STUPD. -/
def execStupd (v : BitVec 24) (s : State) : Host.Outcome State Fault Refusal :=
  .next (checked (requestWord (.stupd v)) true true (countHasRoom s)
    (fun s => respond .ok (accumulate (sext24 v) s)) s)

/-- R232: STFIN. -/
def execStfin (s : State) : Host.Outcome State Fault Refusal :=
  .next (checked (requestWord .stfin) true true true (fun s => respond .ok (finalize s)) s)

end Sys2Proof.Machine
end

