-- ==== Sys2Proof/Machine/Dispatch.lean ====
section
/-! DEFINITION. The meaning of every instruction: one arm per row of spec/opcode_table.json. -/

namespace Sys2Proof.Machine

/-- One instruction, run to completion (R31). -/
def exec (i : Instr) (s : State) : Host.Outcome State Fault Refusal :=
  match i with
  | .init => Sys2Proof.Machine.execInit s
  | .wreg id val => Sys2Proof.Machine.execWreg id val s
  | .rreg id => Sys2Proof.Machine.execRreg id s
  | .cmd c => Sys2Proof.Machine.execCmd c s
  | .config g r => Sys2Proof.Machine.execConfig g r s
  | .selch ch => Sys2Proof.Machine.execSelch ch s
  | .syncwake => Sys2Proof.Machine.execSyncwake s
  | .wait budget => Sys2Proof.Machine.execWait budget s
  | .rdsample acc => Sys2Proof.Machine.execRdsample acc s
  | .stclr => Sys2Proof.Machine.execStclr s
  | .stupd v => Sys2Proof.Machine.execStupd v s
  | .stfin => Sys2Proof.Machine.execStfin s
  | .wakeup => Sys2Proof.Machine.execWakeup s
  | .rdata => Sys2Proof.Machine.execRdata s
  | .rdatac => Sys2Proof.Machine.execRdatac s
  | .sdatac => Sys2Proof.Machine.execSdatac s
  | .selfcal => Sys2Proof.Machine.execSelfcal s
  | .selfocal => Sys2Proof.Machine.execSelfocal s
  | .selfgcal => Sys2Proof.Machine.execSelfgcal s
  | .sysocal => Sys2Proof.Machine.execSysocal s
  | .sysgcal => Sys2Proof.Machine.execSysgcal s
  | .sync => Sys2Proof.Machine.execSync s
  | .standby => Sys2Proof.Machine.execStandby s
  | .devReset => Sys2Proof.Machine.execDevReset s
  | .rregDev id => Sys2Proof.Machine.execRregDev id s
  | .wregDev id data => Sys2Proof.Machine.execWregDev id data s

end Sys2Proof.Machine
end

