-- ==== Sys2Proof/Machine/HostPort.lean ====
section
/-! DEFINITION. The host's three actions (spec/10_state.md R31): issue a request word, read a result register, reset;
and the presentation of a device command row of the opcode table (log 5). -/

namespace Sys2Proof.Machine

/-- R31, R266: what a presented word or frame does: a halted engine does not decode it; an illegal word raises
ILLEGAL_OP (R261); an instruction is executed. -/
def runWord (w : Word) (s : State) : Host.Outcome State Fault Refusal :=
  match decode (.word w) with
  | .ok i => exec i s
  | .error _ => .next (if halted s then respond .halted s else raise .illegalOp w s)

/-- A device command frame. A byte sequence that is no command of R102 has no meaning (log 8). -/
def runFrame (bytes : List Byte) (s : State) : Host.Outcome State Fault Refusal :=
  match decode (.frame bytes) with
  | .ok i => exec i s
  | .error _ => if halted s then .next (respond .halted s) else .refused .unknownFrame

/-- R45, R47: `read(i)`: only the read port shows it. -/
def hostRead (i : BitVec 5) (s : State) : State := { s with readData := resultRegister s i }

/-- R31: one host action, taken from the program. -/
def hostAction (a : HostAction) (s : State) : Host.Outcome State Fault Refusal :=
  match a with
  | .issue w => runWord w s
  | .frame bytes => runFrame bytes s
  | .read i => .next (hostRead i s)
  | .rst => .next (engineReset s)

/-- R76: with no host action to take, the engine waits (log 1). -/
def hostStep (s : State) : Host.Outcome State Fault Refusal :=
  match s.program with
  | [] => .next s
  | a :: rest => hostAction a { s with program := rest }

/-- The host action that presents an encoded instruction. -/
def presentAction : Encoded → HostAction
  | .word w => .issue w
  | .frame bytes => .frame bytes

end Sys2Proof.Machine
end

