-- ==== Sys2Proof/Machine/Step.lean ====
section
/-! DEFINITION. One step of the machine: the host's next action (spec/10_state.md R31). -/

namespace Sys2Proof.Machine

/-- R31, R85: the next action of the host, to completion. -/
def step (s : State) : Host.Outcome State Fault Refusal := hostStep s

/-- The state in which the host's next action presents the table word (log 1, log 12). -/
def State.withFetchWord (s : State) (nbits w : Nat) : State :=
  { s with program := presentAction (presentTableWord nbits w) :: s.program }

end Sys2Proof.Machine
end

