-- ==== Sys2Proof/Machine/Assembler.lean ====
section
/-! DEFINITION. The assembler of spec/30_encoding.md R123–R126, from parsed lines (log 18) to request words. -/

namespace Sys2Proof.Machine

/-- R123, R124: one line. Operands are the numbers as written. -/
inductive AsmLine where
  | init
  | wreg (id val : Int)
  | rreg (id : Int)
  | cmd (c : Int)
  | config (gain r : Int)
  | selch (ch : Int)
  | syncwake
  | wait (b : Int)
  | rdsample (acc : Bool)
  | stclr
  | stupd (x : Int)
  | stfin
  | word (u : Int)
  | wakeup
  | startc
  | stopc
  | selfcal
  | selfocal
  | selfgcal
  | sysocal
  | sysgcal
  | sync
  | standby
  | devreset
  | acq
  deriving DecidableEq, Repr

/-- R123, R125, R126: a program text. -/
inductive AsmText where
  | done
  | line (l : AsmLine) (rest : AsmText)
  | rep (n : Nat) (body rest : AsmText)
  | setup (gain r ch : Int) (rest : AsmText)
  | acquire (n : Nat) (b : Int) (rest : AsmText)
  deriving DecidableEq, Repr

/-- R123: the number n, if it lies in lo … hi. -/
def inRange (lo hi n : Int) : Option Int := if lo ≤ n ∧ n ≤ hi then some n else none

/-- R106, R123: log2 of one of the seven gains. -/
def gainCode (gain : Int) : Option (BitVec 3) :=
  if gain = 1 then some 0#3
  else if gain = 2 then some 1#3
  else if gain = 4 then some 2#3
  else if gain = 8 then some 3#3
  else if gain = 16 then some 4#3
  else if gain = 32 then some 5#3
  else if gain = 64 then some 6#3
  else none

/-- R123: the request word of an instruction that is a host op. -/
def assembleOp (i : Instr) : Option Word :=
  match encode i with
  | .word w => some w
  | .frame _ => none

/-- R123, R124: the word of a line, or none where the assembler refuses it. -/
def assembleLine : AsmLine → Option Word
  | .init => assembleOp .init
  | .wreg id val =>
    match inRange 0 15 id, inRange 0 255 val with
    | some id, some val => assembleOp (.wreg (BitVec.ofInt 4 id) (BitVec.ofInt 8 val))
    | _, _ => none
  | .rreg id => (inRange 0 15 id).bind fun id => assembleOp (.rreg (BitVec.ofInt 4 id))
  | .cmd c => (inRange 0 255 c).bind fun c => assembleOp (.cmd (BitVec.ofInt 8 c))
  | .config gain r =>
    match gainCode gain, inRange 0 15 r with
    | some g, some r => assembleOp (.config g (BitVec.ofInt 4 r))
    | _, _ => none
  | .selch ch => (inRange 0 15 ch).bind fun ch => assembleOp (.selch (BitVec.ofInt 4 ch))
  | .syncwake => assembleOp .syncwake
  | .wait b => (inRange 0 16777215 b).bind fun b => assembleOp (.wait (BitVec.ofInt 24 b))
  | .rdsample acc => assembleOp (.rdsample acc)
  | .stclr => assembleOp .stclr
  | .stupd x => (inRange (-8388608) 8388607 x).bind fun x => assembleOp (.stupd (BitVec.ofInt 24 x))
  | .stfin => assembleOp .stfin
  | .word u => (inRange 0 4294967295 u).map fun u => BitVec.ofInt 32 u
  | .wakeup => assembleOp (.cmd 0x00#8)
  | .startc => assembleOp (.cmd 0x03#8)
  | .stopc => assembleOp (.cmd 0x0F#8)
  | .selfcal => assembleOp (.cmd 0xF0#8)
  | .selfocal => assembleOp (.cmd 0xF1#8)
  | .selfgcal => assembleOp (.cmd 0xF2#8)
  | .sysocal => assembleOp (.cmd 0xF3#8)
  | .sysgcal => assembleOp (.cmd 0xF4#8)
  | .sync => assembleOp (.cmd 0xFC#8)
  | .standby => assembleOp (.cmd 0xFD#8)
  | .devreset => assembleOp (.cmd 0xFE#8)
  | .acq => assembleOp (.rdsample true)

/-- R123: a refused line emits no word. -/
def emitLine (l : AsmLine) : List Word := (assembleLine l).toList

/-- R125: n consecutive copies. -/
def copies (n : Nat) (ws : List Word) : List Word := (List.replicate n ws).flatten

/-- R123–R126: the words of a text, in order. R126 does not say what a SETUP or ACQUIRE with an operand out of range
emits: here each line it expands to is assembled by itself, so that only the refused line's word is left out (DESIGN
CHOICE, log 22). -/
def assemble : AsmText → List Word
  | .done => []
  | .line l rest => emitLine l ++ assemble rest
  | .rep n body rest => copies n (assemble body) ++ assemble rest
  | .setup gain r ch rest =>
    emitLine (.config gain r) ++ emitLine (.selch ch) ++ emitLine .syncwake ++ emitLine .startc ++ assemble rest
  | .acquire n b rest => copies n (emitLine (.wait b) ++ emitLine .acq) ++ assemble rest

/-- The host's program is a word sequence (10_state.md R49): the actions that issue it. -/
def issueAll (ws : List Word) : List HostAction := ws.map HostAction.issue

end Sys2Proof.Machine
end

