-- ==== Sys2Proof/Machine/Timing.lean ====
section
/-! DEFINITION. The fake clock of spec/20_memory.md R82 and spec/70_reset_and_hazards.md R310: a lower bound, in µs, of
the time a trace takes. No step reads it. -/

namespace Sys2Proof.Machine

/-- R20: `T_k`, in whole µs by the model's choice (DESIGN CHOICE, log 21). -/
def delayTime (p : Params) : DelayKind → Nat
  | .pre => p.tPre
  | .turn => p.tTurn
  | .settle => p.tSettle
  | .syncGap => p.tSyncGap
  | .wakeGap => p.tWakeGap

/-- R82: the time one event asks of the time source. -/
def eventTime (p : Params) : Event → Nat
  | .delay k => delayTime p k
  | .csFall | .csRise | .xfer _ _ | .poll _ | .timeout => 0

/-- R310: the sum of a trace's delays. -/
def traceTime (p : Params) (trace : List Event) : Nat := (trace.map (eventTime p)).sum

end Sys2Proof.Machine
end

