-- ==== Sys2Proof/Safety.lean ====
section
/-! DEFINITION. The terms that claims are stated in: the tables of the spec written as tables (opcode rows, allowed
states R37, transitions R34, frames R103), what a transaction leaves, and the invariants. Nothing here is used by the
machine. -/

namespace Sys2Proof.Machine

/-! ### The opcode table -/

/-- The mask and match of the instruction's row of spec/opcode_table.json: of the request word, or of the command
byte. -/
def tableRow : Instr → Nat × Nat
  | .init => (0xFFFFFFFF, 0x01000000)
  | .wreg _ _ => (0xFFF0FF00, 0x02000000)
  | .rreg _ => (0xFFF0FFFF, 0x03000000)
  | .cmd _ => (0xFFFFFF00, 0x04000000)
  | .config _ _ => (0xFFFFF8F0, 0x05000000)
  | .selch _ => (0xFFFFFFF0, 0x06000000)
  | .syncwake => (0xFFFFFFFF, 0x07000000)
  | .wait _ => (0xFF000000, 0x08000000)
  | .rdsample _ => (0xFFFFFFFE, 0x09000000)
  | .stclr => (0xFFFFFFFF, 0x0A000000)
  | .stupd _ => (0xFF000000, 0x0B000000)
  | .stfin => (0xFFFFFFFF, 0x0C000000)
  | .wakeup => (0xFF, 0x00)
  | .rdata => (0xFF, 0x01)
  | .rdatac => (0xFF, 0x03)
  | .sdatac => (0xFF, 0x0F)
  | .selfcal => (0xFF, 0xF0)
  | .selfocal => (0xFF, 0xF1)
  | .selfgcal => (0xFF, 0xF2)
  | .sysocal => (0xFF, 0xF3)
  | .sysgcal => (0xFF, 0xF4)
  | .sync => (0xFF, 0xFC)
  | .standby => (0xFF, 0xFD)
  | .devReset => (0xFF, 0xFE)
  | .rregDev _ => (0xF0, 0x10)
  | .wregDev _ _ => (0xF0, 0x50)

/-- The number that a row's mask and match apply to. -/
def tableBits : Encoded → Nat
  | .word w => w.toNat
  | .frame bytes => ((bytes.head?).getD 0#8).toNat

/-- R111, R121: the host words that are instructions, as mask and match. -/
def hostRows : List (Word × Word) :=
  [(0xFFFFFFFF#32, 0x01000000#32), (0xFFF0FF00#32, 0x02000000#32), (0xFFF0FFFF#32, 0x03000000#32),
   (0xFFFFFF00#32, 0x04000000#32), (0xFFFFF8F0#32, 0x05000000#32), (0xFFFFFFF0#32, 0x06000000#32),
   (0xFFFFFFFF#32, 0x07000000#32), (0xFF000000#32, 0x08000000#32), (0xFFFFFFFE#32, 0x09000000#32),
   (0xFFFFFFFF#32, 0x0A000000#32), (0xFF000000#32, 0x0B000000#32), (0xFFFFFFFF#32, 0x0C000000#32)]

/-- R121: the word meets one of the rows. -/
def legalWord (w : Word) : Bool := hostRows.any fun row => w &&& row.1 == row.2

/-! ### The checks of an op -/

/-- R124, R102: the command byte that an instruction sends as `CMD c`, if it is one of those. -/
def commandByte : Instr → Option Byte
  | .cmd c => some c
  | .wakeup => some 0x00#8
  | .rdata => some 0x01#8
  | .rdatac => some 0x03#8
  | .sdatac => some 0x0F#8
  | .selfcal => some 0xF0#8
  | .selfocal => some 0xF1#8
  | .selfgcal => some 0xF2#8
  | .sysocal => some 0xF3#8
  | .sysgcal => some 0xF4#8
  | .sync => some 0xFC#8
  | .standby => some 0xFD#8
  | .devReset => some 0xFE#8
  | .init | .wreg _ _ | .rreg _ | .config _ _ | .selch _ | .syncwake | .wait _ | .rdsample _ | .stclr | .stupd _
  | .stfin | .rregDev _ | .wregDev _ _ => none

/-- The device commands of one byte that R124 and R102 send as `CMD c`. -/
def deviceCommands : List (Instr × Byte) :=
  [(.wakeup, 0x00#8), (.rdata, 0x01#8), (.rdatac, 0x03#8), (.sdatac, 0x0F#8), (.selfcal, 0xF0#8), (.selfocal, 0xF1#8),
   (.selfgcal, 0xF2#8), (.sysocal, 0xF3#8), (.sysgcal, 0xF4#8), (.sync, 0xFC#8), (.standby, 0xFD#8), (.devReset, 0xFE#8)]

/-- R148: the eleven command bytes. -/
def legalCommands : List Byte :=
  [0x00#8, 0x03#8, 0x0F#8, 0xF0#8, 0xF1#8, 0xF2#8, 0xF3#8, 0xF4#8, 0xFC#8, 0xFD#8, 0xFE#8]

/-- R262: the operands are legal. -/
def operandsLegal (i : Instr) : Prop :=
  match i with
  | .wreg id _ => id.toNat ≤ 10
  | .rreg id => id.toNat ≤ 10
  | .rregDev id => id.toNat ≤ 10
  | .wregDev id data => id.toNat + (data.length - 1) ≤ 10
  | .config g _ => g.toNat ≠ 7
  | i => ∀ c, commandByte i = some c → c ∈ legalCommands

/-- R37, the rows of the CMD bytes: 0x03; 0x0F and 0xFE; the rest. -/
def commandStates (c : Byte) : List PState :=
  if c = 0x03#8 then [.chsel]
  else if c = 0x0F#8 ∨ c = 0xFE#8 then [.idle, .configured, .chsel, .cont]
  else [.idle, .configured, .chsel]

/-- R37, the rows of the allowed-state table: the states marked Y (or Y*). -/
def allowedStates (i : Instr) : List PState :=
  match i with
  | .init => [.reset]
  | .wreg _ _ | .rreg _ | .rregDev _ | .wregDev _ _ | .config _ _ | .syncwake => [.idle, .configured, .chsel]
  | .selch _ => [.configured, .chsel]
  | .wait _ | .stclr | .stupd _ | .stfin => [.reset, .idle, .configured, .chsel, .cont]
  | .rdsample _ => [.cont]
  | .cmd c => commandStates c
  | .wakeup => commandStates 0x00#8
  | .rdata => commandStates 0x01#8
  | .rdatac => commandStates 0x03#8
  | .sdatac => commandStates 0x0F#8
  | .selfcal => commandStates 0xF0#8
  | .selfocal => commandStates 0xF1#8
  | .selfgcal => commandStates 0xF2#8
  | .sysocal => commandStates 0xF3#8
  | .sysgcal => commandStates 0xF4#8
  | .sync => commandStates 0xFC#8
  | .standby => commandStates 0xFD#8
  | .devReset => commandStates 0xFE#8

/-- R37: the op is legal in the state; Y* asks for syncPending = 0 as well. -/
def allowed (i : Instr) (s : State) : Prop :=
  s.pstate ∈ allowedStates i ∧ (commandByte i = some 0x03#8 → s.syncPending = false)

/-- R265: the op would take the count past its end. -/
def countFull (i : Instr) (s : State) : Prop :=
  s.stCount = 0xFFFFFFFF#32 ∧ (i = .rdsample true ∨ ∃ v, i = .stupd v)

/-- The op is executed: none of the checks of R267 stops it. -/
def proceeds (i : Instr) (s : State) : Prop :=
  halted s = false ∧ i.wellFormed = true ∧ operandsLegal i ∧ allowed i s ∧ ¬ countFull i s

/-- R266: fault entry, and nothing else. `bit` is the literal bit of the fault's code (R260), which a statement writes
out: it does not come from the machine's faultBit. -/
def faulted (bit : BitVec 5) (w : Word) (s : State) : State :=
  { s with faults := s.faults ||| bit, faultWord := w, resp := some .fault }

/-- R34: the rows of the transition table for command bytes. -/
def commandTransitions (c : Byte) (p : PState) : List PState :=
  if c = 0x03#8 ∧ p = .chsel then [.cont]
  else if c = 0x0F#8 ∧ p = .cont then [.chsel]
  else if c = 0xFE#8 ∧ p ≠ .reset then [.idle]
  else []

/-- R34: the rows of the transition table, for an op that proceeds. -/
def transitions (i : Instr) (p : PState) : List PState :=
  match i, p with
  | .init, .reset => [.idle]
  | .config _ _, .idle | .config _ _, .configured | .config _ _, .chsel => [.configured]
  | .selch ch, .configured | .selch ch, .chsel => if ch.toNat ≤ 7 then [.chsel] else []
  | i, p =>
    match commandByte i with
    | some c => commandTransitions c p
    | none => []

/-- R35: the op performs a mux-changing transaction. -/
def muxChanging (i : Instr) : Bool :=
  match i with
  | .config _ _ => true
  | .selch ch => decide (ch.toNat ≤ 7)
  | .wreg id _ => id == 1#4
  | .wregDev id data => decide (id.toNat ≤ 1) && decide (2 ≤ id.toNat + data.length)
  | _ => false

/-- R290: every engine field at its reset value. -/
def resetFields (s : State) : Prop :=
  s.pstate = .reset ∧ s.syncPending = false ∧ s.syncArmed = false ∧
    s.cfgGain = 0#3 ∧ s.cfgRate = 0#4 ∧ s.cfgChan = 0#3 ∧ s.lastByte = 0x00#8 ∧ s.lastSample = 0#32 ∧
    s.lastWaitTimeout = false ∧ s.lastPolls = 0#32 ∧ s.timeoutCount = 0#32 ∧ s.xferCount = 0#32 ∧
    s.faults = 0#5 ∧ s.faultWord = 0#32 ∧
    s.stCount = 0#32 ∧ s.stMean = 0#64 ∧ s.stM2 = 0#64 ∧ s.stMin = 0#32 ∧ s.stMax = 0#32 ∧
    s.finCount = 0#32 ∧ s.finMean = 0#64 ∧ s.finMin = 0#32 ∧ s.finMax = 0#32 ∧ s.finP2P = 0#32 ∧
    s.finVar = 0x7FF8000000000000#64 ∧ s.finStdev = 0x7FF8000000000000#64 ∧
    s.finNonEmpty = false ∧ s.finVarValid = false ∧ s.csN = true ∧ s.resetN = true ∧ s.trace = []

/-! ### Bus events -/

/-- R103: `[P]b` for every byte, the MISO bytes being the device's from its k-th on. -/
def xferEvents (s : State) : Nat → List Byte → List Event
  | _, [] => []
  | k, b :: bs => .delay .pre :: .xfer b (misoAt s k) :: xferEvents s (k + 1) bs

/-- R103: one transaction that only sends bytes. -/
def frameEvents (s : State) (k : Nat) (mosi : List Byte) : List Event :=
  .csFall :: xferEvents s k mosi ++ [.csRise]

/-- R103: one register read. -/
def readEvents (s : State) (id : BitVec 4) : List Event :=
  .csFall :: xferEvents s 0 [rregByte id, 0x00#8] ++ [.delay .turn] ++ xferEvents s 2 [0xFF#8] ++ [.csRise]

/-- R200: the number of the first poll that reads low within the budget, counted from 0. -/
def firstReady (s : State) (budget : Nat) : Option Nat := (List.range budget).find? fun j => !drdyAt s j

/-- R200, R103: the events of a ready wait. -/
def waitEvents (s : State) (budget : Nat) : List Event :=
  match firstReady s budget with
  | some j => .delay .settle :: List.replicate j (.poll true) ++ [.poll false]
  | none => .delay .settle :: List.replicate budget (.poll true) ++ [.timeout]

/-- R103: the bus events of every op that proceeds. -/
def opEvents (i : Instr) (s : State) : List Event :=
  match i with
  | .init => waitEvents s s.params.waitBudget.toNat ++ readEvents s 0#4
  | .wreg id val => frameEvents s 0 [0x50#8 ||| id.setWidth 8, 0x00#8, val]
  | .rreg id | .rregDev id => readEvents s id
  | .wregDev id data => frameEvents s 0 ((0x50#8 ||| id.setWidth 8) :: BitVec.ofNat 8 (data.length - 1) :: data)
  | .config g r =>
    waitEvents s s.params.waitBudget.toNat ++
      frameEvents s 0 [0x50#8, 0x03#8, 0x06#8, 0x08#8, g.setWidth 8, s.params.drateCode[r.toNat]]
  | .selch ch => if ch.toNat ≤ 7 then frameEvents s 0 [0x51#8, 0x00#8, (ch.setWidth 8 <<< 4) ||| 0x08#8] else []
  | .syncwake =>
    frameEvents s 0 [0xFC#8] ++ [.delay .syncGap] ++ frameEvents s 1 [0x00#8] ++ [.delay .wakeGap]
  | .wait budget => waitEvents s budget.toNat
  | .rdsample _ => frameEvents s 0 [0xFF#8, 0xFF#8, 0xFF#8]
  | .stclr | .stupd _ | .stfin => []
  | .cmd c => frameEvents s 0 [c]
  | .wakeup => frameEvents s 0 [0x00#8]
  | .rdata => frameEvents s 0 [0x01#8]
  | .rdatac => frameEvents s 0 [0x03#8]
  | .sdatac => frameEvents s 0 [0x0F#8]
  | .selfcal => frameEvents s 0 [0xF0#8]
  | .selfocal => frameEvents s 0 [0xF1#8]
  | .selfgcal => frameEvents s 0 [0xF2#8]
  | .sysocal => frameEvents s 0 [0xF3#8]
  | .sysgcal => frameEvents s 0 [0xF4#8]
  | .sync => frameEvents s 0 [0xFC#8]
  | .standby => frameEvents s 0 [0xFD#8]
  | .devReset => frameEvents s 0 [0xFE#8]

/-- R103, last column: how many bytes the op transfers. -/
def opBytes (i : Instr) : Nat :=
  match i with
  | .init | .wreg _ _ | .rreg _ | .rregDev _ | .rdsample _ => 3
  | .wregDev _ data => data.length + 2
  | .config _ _ => 6
  | .selch ch => if ch.toNat ≤ 7 then 3 else 0
  | .syncwake => 2
  | .wait _ | .stclr | .stupd _ | .stfin => 0
  | .cmd _ | .wakeup | .rdata | .rdatac | .sdatac | .selfcal | .selfocal | .selfgcal | .sysocal | .sysgcal | .sync
  | .standby | .devReset => 1

/-- What one transaction of n byte transfers with the events `evs` leaves: the trace, the count of transfers, the
device's draws, CS_N high, and syncArmed as given. -/
def transferred (n : Nat) (evs : List Event) (armed : Bool) (s : State) : State :=
  { s with
    trace := s.trace ++ evs, xferCount := s.xferCount + BitVec.ofNat 32 n,
    misoIn := s.misoIn.drop n, misoDraws := s.misoDraws + n, csN := true, syncArmed := armed }

/-- R200: what a ready wait of the given budget leaves. -/
def waited (budget : Nat) (s : State) : State :=
  match firstReady s budget with
  | some j =>
    { s with
      trace := s.trace ++ waitEvents s budget, lastPolls := BitVec.ofNat 32 (j + 1), lastWaitTimeout := false,
      drdyIn := s.drdyIn.drop (j + 1), drdyDraws := s.drdyDraws + (j + 1) }
  | none =>
    { s with
      trace := s.trace ++ waitEvents s budget, lastPolls := BitVec.ofNat 32 budget, lastWaitTimeout := true,
      timeoutCount := satInc s.timeoutCount,
      drdyIn := s.drdyIn.drop budget, drdyDraws := s.drdyDraws + budget }

/-- R200: the response of an op after its ready wait. -/
def waitedStatus (budget : Nat) (s : State) : Status :=
  if (firstReady s budget).isSome then .ok else .timeout

/-! ### The trace -/

/-- R83, R84: where a trace stands: between transactions; inside one, after n byte transfers; or inside one, right
after the pre-byte delay. -/
inductive BusPhase where
  | between
  | inside (n : Nat)
  | primed (n : Nat)
  deriving DecidableEq, Repr

/-- R81, R83, R84: the events that may come next. Inside a transaction a byte needs its pre-byte delay, polls and
timeouts need CS_N = 1, and a transaction has at least one byte. -/
def busNext : BusPhase → Event → Option BusPhase
  | .between, .csFall => some (.inside 0)
  | .between, .poll _ => some .between
  | .between, .timeout => some .between
  | .between, .delay .pre => none
  | .between, .delay _ => some .between
  | .between, .csRise => none
  | .between, .xfer _ _ => none
  | .inside n, .delay .pre => some (.primed n)
  | .inside n, .delay _ => some (.inside n)
  | .inside n, .csRise => if n = 0 then none else some .between
  | .inside _, .csFall => none
  | .inside _, .xfer _ _ => none
  | .inside _, .poll _ => none
  | .inside _, .timeout => none
  | .primed n, .xfer _ _ => some (.inside (n + 1))
  | .primed _, .csFall => none
  | .primed _, .csRise => none
  | .primed _, .delay _ => none
  | .primed _, .poll _ => none
  | .primed _, .timeout => none

/-- The phase after a trace, if the trace keeps to the discipline. -/
def busScan : BusPhase → List Event → Option BusPhase
  | p, [] => some p
  | p, e :: es =>
    match busNext p e with
    | some q => busScan q es
    | none => none

/-- The byte transfers of a trace. -/
def countXfers (trace : List Event) : Nat := trace.countP fun e => match e with | .xfer _ _ => true | _ => false

/-- The ready-wait timeouts of a trace. -/
def countTimeouts (trace : List Event) : Nat := trace.countP fun e => match e with | .timeout => true | _ => false

/-- The polls of a trace. -/
def countPolls (trace : List Event) : Nat := trace.countP fun e => match e with | .poll _ => true | _ => false

/-! ### Invariants, each kept by every step -/

/-- R43, R83, R84: at an op boundary the pins are high and the trace is whole transactions. -/
def busInv (s : State) : Prop :=
  s.csN = true ∧ s.resetN = true ∧ busScan .between s.trace = some .between

/-- R81, R201: the counters are what the trace shows. -/
def countersInv (s : State) : Prop :=
  s.xferCount = BitVec.ofNat 32 (countXfers s.trace) ∧
    s.timeoutCount.toNat = min (countTimeouts s.trace) 0xFFFFFFFF

/-- R34, R35, R36, R39, R106: in continuous mode no mux change is pending; the shadows hold what CONFIG and SELCH can
write; nothing is configured in RESET. -/
def protocolInv (s : State) : Prop :=
  (s.pstate = .cont → s.syncPending = false ∧ s.syncArmed = false) ∧
    (s.pstate = .reset → s.syncPending = false ∧ s.syncArmed = false ∧ s.cfgGain = 0#3 ∧ s.cfgRate = 0#4 ∧ s.cfgChan = 0#3) ∧
    (s.pstate = .configured → s.cfgChan = 0#3) ∧ s.cfgGain.toNat ≤ 6

/-- R42: at most one fault bit is ever set, and with none set no fault word is held. -/
def faultInv (s : State) : Prop :=
  s.faults ∈ [0#5, 0b00001#5, 0b00010#5, 0b00100#5, 0b01000#5, 0b10000#5] ∧ (s.faults = 0#5 → s.faultWord = 0#32)

/-- R120, R205: a decoded sample's range. -/
def sampleRange (x : Word) : Prop := -8388608 ≤ x.toInt ∧ x.toInt ≤ 8388607

/-- R231, R232, R235: the accumulator and the snapshot hold samples, in order, and the snapshot's flags and
peak-to-peak agree with it. -/
def statsInv (s : State) : Prop :=
  sampleRange s.lastSample ∧
    sampleRange s.stMin ∧ sampleRange s.stMax ∧ s.stMin.toInt ≤ s.stMax.toInt ∧
    (s.stCount = 0#32 → s.stMean = f64Zero ∧ s.stM2 = f64Zero ∧ s.stMin = 0#32 ∧ s.stMax = 0#32) ∧
    sampleRange s.finMin ∧ sampleRange s.finMax ∧
    s.finP2P.toInt = s.finMax.toInt - s.finMin.toInt ∧ 0 ≤ s.finP2P.toInt ∧ s.finP2P.toInt ≤ 16777215 ∧
    s.finNonEmpty = decide (1 ≤ s.finCount.toNat) ∧ s.finVarValid = decide (2 ≤ s.finCount.toNat)

/-! ### Binary64 -/

/-- The exact magnitude `num / den`, in units of 2^-1074, signed. -/
def exactUnits (neg : Bool) (num : Nat) : Int := if neg then -(num : Int) else (num : Int)

/-- R230: x is finite and no finite value is nearer to the exact value n / den (in units of 2^-1074) than x. -/
def nearest (x : F64) (n : Int) (den : Nat) : Prop :=
  f64IsFinite x = true ∧
    ∀ z : F64, f64IsFinite z = true → (f64Units x * den - n).natAbs ≤ (f64Units z * den - n).natAbs

end Sys2Proof.Machine
end

