-- ==== Sys2Proof/Certificates/Slice0/Obligations.lean ====
section
/-! DEFINITION. The statements about this machine, from the numbered rules of spec/. `misoAt s k` is the k-th MISO byte
and `drdyAt s k` the k-th DRDY_N level that the device supplies from state s on (draws, R87; log 2). -/

open Sys2Proof Sys2Proof.Machine

/-! ### Encoding -/

/-- Every well-formed instruction is what the decoder reads from its own encoding (R110–R122, R100–R102). -/
def Obligations.EveryInstructionDecodesBack : Prop :=
  ∀ i : Instr, i.wellFormed = true → decode (encode i) = .ok i

/-- What the decoder accepts, word or frame, is the encoding of the instruction read: no bit of it is ignored; and the
request word of a host op is the word presented (R110, R122, R100–R102; the count bytes that a frame may have are the
model's reading, log 9). -/
def Obligations.AcceptedPresentationIsTheEncoding : Prop :=
  (∀ (e : Encoded) (i : Instr), decode e = .ok i → encode i = e ∧ i.wellFormed = true) ∧
  ∀ (w : Word) (i : Instr), decodeWord w = .ok i → requestWord i = w

/-- R122: the decoder accepts exactly the words of the opcode map with every reserved bit 0. -/
def Obligations.LegalWordsAreTheTableRows : Prop :=
  ∀ w : Word, (∃ i, decodeWord w = .ok i) ↔ legalWord w = true

/-- Words written out from R112–R120 and frames from R101, R102. -/
def Obligations.WrittenOutWordsDecode : Prop :=
  decodeWord 0x01000000#32 = .ok .init ∧
    decodeWord 0x020A00FF#32 = .ok (.wreg 10#4 0xFF#8) ∧
    decodeWord 0x03010000#32 = .ok (.rreg 1#4) ∧
    decodeWord 0x040000FC#32 = .ok (.cmd 0xFC#8) ∧
    decodeWord 0x0500060F#32 = .ok (.config 6#3 15#4) ∧
    decodeWord 0x06000009#32 = .ok (.selch 9#4) ∧
    decodeWord 0x08FFFFFF#32 = .ok (.wait 0xFFFFFF#24) ∧
    decodeWord 0x09000001#32 = .ok (.rdsample true) ∧
    decodeWord 0x0B800000#32 = .ok (.stupd 0x800000#24) ∧
    decodeWord 0x02100000#32 = .error .reservedBits ∧
    decodeWord 0x0D000000#32 = .error .illegalOpcode ∧
    decode (.frame [0x0F#8]) = .ok .sdatac ∧
    decode (.frame [0x1A#8, 0x00#8]) = .ok (.rregDev 10#4) ∧
    decode (.frame [0x50#8, 0x03#8, 0x06#8, 0x08#8, 0x00#8, 0x82#8]) =
      .ok (.wregDev 0#4 [0x06#8, 0x08#8, 0x00#8, 0x82#8])

/-! ### The step and the host interface -/

/-- A step whose next host action presents an encoded instruction is exec of that instruction, with the action taken
off the host's program (R31; the program as a list in State is the model's own, log 1; for frames log 5). -/
def Obligations.StepRunsThePresentedInstruction : Prop :=
  ∀ (s : State) (e : Encoded) (i : Instr) (rest : List HostAction),
    s.program = presentAction e :: rest → decode e = .ok i → step s = exec i { s with program := rest }

/-- R261, with R266's entry: an illegal word, in any state that is not halted; F_ILLEGAL_OP is bit 0 (R260). -/
def Obligations.IllegalWordTakesIllegalOp : Prop :=
  ∀ (s : State) (w : Word) (rest : List HostAction),
    s.program = .issue w :: rest → legalWord w = false →
      step s = .next (if halted s then { s with program := rest, resp := some .halted }
                      else faulted 0b00001#5 w { s with program := rest })

/-- R266: a halted engine answers HALTED to every word and changes nothing (so too to a device frame, log 5). -/
def Obligations.HaltedEngineChangesNothing : Prop :=
  ∀ (s : State) (e : Encoded) (rest : List HostAction),
    s.program = presentAction e :: rest → halted s = true →
      step s = .next { s with program := rest, resp := some .halted }

/-- R275: no step but engine reset leaves the halted state, and none changes anything but the host's side, the
model's own fields program, resp and readData (logs 1 and 4). -/
def Obligations.OnlyResetLeavesHalt : Prop :=
  ∀ s t : State, halted s = true → step s = .next t → (∀ rest, s.program ≠ .rst :: rest) →
    halted t = true ∧ t = { s with program := t.program, resp := t.resp, readData := t.readData }

/-- R290: power-on and `rst` leave every engine field at its reset value. -/
def Obligations.ResetRestoresEveryField : Prop :=
  resetFields State.reset ∧
    ∀ (s : State) (rest : List HostAction), s.program = .rst :: rest → ∃ t, step s = .next t ∧ resetFields t

/-- R47: a host read shows the register's value and changes nothing; indices 20–31 read 0. -/
def Obligations.HostReadsArePure : Prop :=
  ∀ (s : State) (i : BitVec 5) (rest : List HostAction), s.program = .read i :: rest →
    step s = .next { s with program := rest, readData := resultRegister s i } ∧
      (20 ≤ i.toNat → resultRegister s i = 0#64)

/-- R45: the result register map. -/
def Obligations.ResultRegisterMap : Prop :=
  ∀ s : State,
    resultRegister s 0#5 = statusRegister s ∧ resultRegister s 1#5 = cfgRegister s ∧
    resultRegister s 2#5 = s.lastByte.setWidth 64 ∧ resultRegister s 3#5 = s.lastSample.setWidth 64 ∧
    resultRegister s 4#5 = s.lastPolls.setWidth 64 ∧ resultRegister s 5#5 = s.timeoutCount.setWidth 64 ∧
    resultRegister s 6#5 = s.faultWord.setWidth 64 ∧ resultRegister s 7#5 = s.stCount.setWidth 64 ∧
    resultRegister s 8#5 = s.stMean ∧ resultRegister s 9#5 = s.stM2 ∧
    resultRegister s 10#5 = s.stMin.setWidth 64 ∧ resultRegister s 11#5 = s.stMax.setWidth 64 ∧
    resultRegister s 12#5 = s.finCount.setWidth 64 ∧ resultRegister s 13#5 = s.finMean ∧
    resultRegister s 14#5 = s.finVar ∧ resultRegister s 15#5 = s.finStdev ∧
    resultRegister s 16#5 = s.finMin.setWidth 64 ∧ resultRegister s 17#5 = s.finMax.setWidth 64 ∧
    resultRegister s 18#5 = s.finP2P.setWidth 64 ∧ resultRegister s 19#5 = s.xferCount.setWidth 64 ∧
    ∀ i : BitVec 5, 20 ≤ i.toNat → resultRegister s i = 0#64

/-- R46, with the codes of R33 and the fault bits of R260 written out: every bit of the STATUS result register. -/
def Obligations.StatusRegisterBits : Prop :=
  ∀ s : State,
    (statusRegister s).extractLsb' 0 3 =
      (match s.pstate with
        | .reset => 0#3
        | .idle => 1#3
        | .configured => 2#3
        | .chsel => 3#3
        | .cont => 4#3) ∧
    (statusRegister s).getLsbD 3 = s.syncPending ∧ (statusRegister s).getLsbD 4 = s.syncArmed ∧
    (statusRegister s).getLsbD 5 = s.lastWaitTimeout ∧ (statusRegister s).getLsbD 6 = s.finNonEmpty ∧
    (statusRegister s).getLsbD 7 = s.finVarValid ∧ (statusRegister s).getLsbD 8 = s.faults.getLsbD 0 ∧
    (statusRegister s).getLsbD 9 = s.faults.getLsbD 1 ∧ (statusRegister s).getLsbD 10 = s.faults.getLsbD 2 ∧
    (statusRegister s).getLsbD 11 = s.faults.getLsbD 3 ∧ (statusRegister s).getLsbD 12 = s.faults.getLsbD 4 ∧
    (statusRegister s).getLsbD 13 = decide (s.faults ≠ 0#5) ∧
    ∀ k, 14 ≤ k → (statusRegister s).getLsbD k = false

/-- R48: every bit of the CFG result register. -/
def Obligations.CfgRegisterBits : Prop :=
  ∀ s : State,
    (cfgRegister s).extractLsb' 0 3 = s.cfgGain ∧ (cfgRegister s).extractLsb' 4 4 = s.cfgRate ∧
    (cfgRegister s).extractLsb' 8 3 = s.cfgChan ∧ (cfgRegister s).getLsbD 3 = false ∧
    (cfgRegister s).getLsbD 7 = s.cfgRate.getLsbD 3 ∧ ∀ k, 11 ≤ k → (cfgRegister s).getLsbD k = false

/-! ### The checks of an op -/

/-- R262: an illegal operand value raises ILLEGAL_ARG whatever the protocol state; SELCH with a channel above 7 is no
fault. The device rows of the opcode table take the faults of the op that sends them (log 5). -/
def Obligations.IllegalOperandTakesIllegalArg : Prop :=
  (∀ (i : Instr) (s : State), i.wellFormed = true → halted s = false → ¬ operandsLegal i →
    exec i s = .next (faulted 0b00010#5 (requestWord i) s)) ∧
  ∀ (ch : BitVec 4) (s : State), halted s = false → s.pstate ∈ [.configured, .chsel] → 7 < ch.toNat →
    exec (.selch ch) s = .next { s with resp := some .ok }

/-- R38, R263: an op in a state that R37's table does not mark legal raises ORDER (bit 2, R260), and changes no state
but the fault fields. That the device rows take the checks of the op that sends them is the model's choice (log 5). -/
def Obligations.DisallowedStateTakesOrder : Prop :=
  ∀ (i : Instr) (s : State), i.wellFormed = true → halted s = false → operandsLegal i → ¬ allowed i s →
    exec i s = .next (faulted 0b00100#5 (requestWord i) s)

/-- R265: STUPD, and RDSAMPLE with acc = 1, at the full count: COUNT_OVF (bit 4, R260), no bus event, no sample. -/
def Obligations.FullCountTakesCountOvf : Prop :=
  ∀ (i : Instr) (s : State), halted s = false → allowed i s → countFull i s →
    exec i s = .next (faulted 0b10000#5 (requestWord i) s)

/-- R102, R148: RDATA is never sent: in every state but a halted one it takes ILLEGAL_ARG (log 7). -/
def Obligations.RdataIsNeverSent : Prop :=
  ∀ s : State, halted s = false →
    exec .rdata s = .next { s with faults := s.faults ||| 0b00010#5, faultWord := 0x04000001#32, resp := some .fault }

/-- R37, R267: an op that passes the checks completes with OK or TIMEOUT and raises nothing (INIT: where the device's
identity is the expected one). For the device rows this is the model's choice (logs 5 and 6). -/
def Obligations.OpsThatPassTheChecksComplete : Prop :=
  ∀ (i : Instr) (s : State), proceeds i s → (i = .init → (misoAt s 2).extractLsb' 4 4 = s.params.expectedId) →
    ∃ t, exec i s = .next t ∧ t.resp ∈ [some .ok, some .timeout] ∧ t.faults = s.faults ∧ t.faultWord = s.faultWord

/-- R42: the fault fields are written only by fault entry, with the op's request word as faultWord. For the device rows
that word is the model's choice: the word of the op that sends the command (log 5), and for a WREG(dev) burst of two to
four bytes a free value (log 6). -/
def Obligations.FaultFieldsChangeOnlyOnEntry : Prop :=
  ∀ (i : Instr) (s t : State), exec i s = .next t →
    (t.faults = s.faults ∧ t.faultWord = s.faultWord) ∨
      (t.resp = some .fault ∧ t.faultWord = requestWord i ∧ ∃ c, t.faults = s.faults ||| faultBit c)

/-! ### What each op does -/

/-- R103: the exact bus events and transfer count of every op; as ops of their own the device rows are the model's
choice (logs 5 and 6). -/
def Obligations.BusEventsOfEveryOp : Prop :=
  ∀ (i : Instr) (s : State), proceeds i s →
    ∃ t, exec i s = .next t ∧ t.trace = s.trace ++ opEvents i s ∧
      t.xferCount = s.xferCount + BitVec.ofNat 32 (opBytes i)

/-- R141, R140: WREG. -/
def Obligations.WregWritesOneRegister : Prop :=
  ∀ (id : BitVec 4) (val : Byte) (s : State),
    halted s = false → id.toNat ≤ 10 → s.pstate ∈ [.idle, .configured, .chsel] →
    exec (.wreg id val) s = .next
      { transferred 3 (frameEvents s 0 [0x50#8 ||| id.setWidth 8, 0x00#8, val]) false s with
        syncPending := s.syncPending || id == 1#4, resp := some .ok }

/-- R140: WREG(dev), a write of 1 to 4 registers in one transaction (as an op of its own: log 6). -/
def Obligations.WregDevWritesConsecutiveRegisters : Prop :=
  ∀ (id : BitVec 4) (data : List Byte) (s : State),
    halted s = false → 1 ≤ data.length → data.length ≤ 4 → id.toNat + data.length - 1 ≤ 10 →
    s.pstate ∈ [.idle, .configured, .chsel] →
    exec (.wregDev id data) s = .next
      { transferred (data.length + 2)
          (frameEvents s 0 ((0x50#8 ||| id.setWidth 8) :: BitVec.ofNat 8 (data.length - 1) :: data)) false s with
        syncPending := s.syncPending || (decide (id.toNat ≤ 1) && decide (1 ≤ id.toNat + data.length - 1)),
        resp := some .ok }

/-- R145, R146: RREG, and RREG(dev), which runs as RREG by the model's choice (log 5). -/
def Obligations.RregReadsOneRegister : Prop :=
  ∀ (id : BitVec 4) (i : Instr) (s : State), i ∈ [.rreg id, .rregDev id] →
    halted s = false → id.toNat ≤ 10 → s.pstate ∈ [.idle, .configured, .chsel] →
    exec i s = .next
      { transferred 3
          [.csFall, .delay .pre, .xfer (0x10#8 ||| id.setWidth 8) (misoAt s 0), .delay .pre, .xfer 0x00#8 (misoAt s 1),
           .delay .turn, .delay .pre, .xfer 0xFF#8 (misoAt s 2), .csRise] false s with
        lastByte := misoAt s 2, resp := some .ok }

/-- R149, R150: CMD and the single-byte device commands, in the states of R37. That a device command alone runs as the
CMD that sends it is the model's choice (log 5). -/
def Obligations.CommandEffects : Prop :=
  ∀ (i : Instr) (c : Byte) (s : State), commandByte i = some c → c ∈ legalCommands → halted s = false → allowed i s →
    exec i s = .next
      { transferred 1 [.csFall, .delay .pre, .xfer c (misoAt s 0), .csRise] (c == 0xFC#8) s with
        pstate :=
          if c = 0x03#8 then .cont else if c = 0xFE#8 then .idle
          else if c = 0x0F#8 ∧ s.pstate = .cont then .chsel else s.pstate,
        syncPending :=
          if c = 0x00#8 then s.syncPending && !s.syncArmed else if c = 0xFE#8 then false else s.syncPending,
        resp := some .ok }

/-- R124: each pseudo-op expands to the CMD word shown; that the device commands of the opcode table run as these ops is
the model's choice (log 5). -/
def Obligations.PseudoOpsExpand : Prop :=
  (∀ s : State, ∀ ic ∈ deviceCommands, exec ic.1 s = exec (.cmd ic.2) s) ∧
  (∀ (s : State) (id : BitVec 4) (val : Byte),
    exec (.rregDev id) s = exec (.rreg id) s ∧ exec (.wregDev id [val]) s = exec (.wreg id val) s) ∧
  assembleLine .wakeup = assembleLine (.cmd 0x00) ∧ assembleLine .startc = assembleLine (.cmd 0x03) ∧
  assembleLine .stopc = assembleLine (.cmd 0x0F) ∧ assembleLine .selfcal = assembleLine (.cmd 0xF0) ∧
  assembleLine .selfocal = assembleLine (.cmd 0xF1) ∧ assembleLine .selfgcal = assembleLine (.cmd 0xF2) ∧
  assembleLine .sysocal = assembleLine (.cmd 0xF3) ∧ assembleLine .sysgcal = assembleLine (.cmd 0xF4) ∧
  assembleLine .sync = assembleLine (.cmd 0xFC) ∧ assembleLine .standby = assembleLine (.cmd 0xFD) ∧
  assembleLine .devreset = assembleLine (.cmd 0xFE) ∧ assembleLine .acq = assembleLine (.rdsample true)

/-- R170: INIT with the expected identity, after its ready wait, timed out or not. -/
def Obligations.InitAcceptsTheIdentity : Prop :=
  ∀ s : State, halted s = false → s.pstate = .reset → (misoAt s 2).extractLsb' 4 4 = s.params.expectedId →
    exec .init s = .next
      { transferred 3 (readEvents s 0#4) false (waited s.params.waitBudget.toNat s) with
        lastByte := misoAt s 2, pstate := .idle, resp := some (waitedStatus s.params.waitBudget.toNat s) }

/-- R264: INIT with another identity: the fault is taken after the read, whose effects stay; pstate stays RESET. -/
def Obligations.InitTakesIdentity : Prop :=
  ∀ s : State, halted s = false → s.pstate = .reset → (misoAt s 2).extractLsb' 4 4 ≠ s.params.expectedId →
    exec .init s = .next
      { transferred 3 (readEvents s 0#4) false (waited s.params.waitBudget.toNat s) with
        lastByte := misoAt s 2, faults := s.faults ||| 0b01000#5, faultWord := 0x01000000#32, resp := some .fault }

/-- R174: CONFIG, after its ready wait, timed out or not. -/
def Obligations.ConfigWritesFourRegisters : Prop :=
  ∀ (g : BitVec 3) (r : BitVec 4) (s : State),
    halted s = false → g.toNat ≤ 6 → s.pstate ∈ [.idle, .configured, .chsel] →
    exec (.config g r) s = .next
      { transferred 6 (frameEvents s 0 [0x50#8, 0x03#8, 0x06#8, 0x08#8, g.setWidth 8, s.params.drateCode[r.toNat]])
          false (waited s.params.waitBudget.toNat s) with
        syncPending := true, cfgGain := g, cfgRate := r, cfgChan := 0#3, pstate := .configured,
        resp := some (waitedStatus s.params.waitBudget.toNat s) }

/-- R176: SELCH of a channel 0 to 7. -/
def Obligations.SelchSelectsTheChannel : Prop :=
  ∀ (ch : BitVec 4) (s : State), halted s = false → s.pstate ∈ [.configured, .chsel] → ch.toNat ≤ 7 →
    exec (.selch ch) s = .next
      { transferred 3 (frameEvents s 0 [0x51#8, 0x00#8, (ch.setWidth 8 <<< 4) ||| 0x08#8]) false s with
        syncPending := true, cfgChan := ch.setWidth 3, pstate := .chsel, resp := some .ok }

/-- R182: SYNCWAKE. -/
def Obligations.SyncwakeClearsPending : Prop :=
  ∀ s : State, halted s = false → s.pstate ∈ [.idle, .configured, .chsel] →
    exec .syncwake s = .next
      { transferred 2
          [.csFall, .delay .pre, .xfer 0xFC#8 (misoAt s 0), .csRise, .delay .syncGap,
           .csFall, .delay .pre, .xfer 0x00#8 (misoAt s 1), .csRise, .delay .wakeGap] false s with
        syncPending := false, resp := some .ok }

/-- R200, R202: WAIT ends at the first poll that reads low, or times out after `budget` polls; legal in every state. -/
def Obligations.WaitEndsAtTheFirstLowPoll : Prop :=
  ∀ (budget : BitVec 24) (s : State), halted s = false →
    (∀ j, j < budget.toNat → drdyAt s j = false → (∀ k, k < j → drdyAt s k = true) →
      exec (.wait budget) s = .next
        { s with
          trace := s.trace ++ (.delay .settle :: List.replicate j (.poll true) ++ [.poll false]),
          lastPolls := BitVec.ofNat 32 (j + 1), lastWaitTimeout := false,
          drdyIn := s.drdyIn.drop (j + 1), drdyDraws := s.drdyDraws + (j + 1), resp := some .ok }) ∧
    ((∀ k, k < budget.toNat → drdyAt s k = true) →
      exec (.wait budget) s = .next
        { s with
          trace := s.trace ++ (.delay .settle :: List.replicate budget.toNat (.poll true) ++ [.timeout]),
          lastPolls := budget.setWidth 32, lastWaitTimeout := true,
          timeoutCount := if s.timeoutCount = 0xFFFFFFFF#32 then 0xFFFFFFFF#32 else s.timeoutCount + 1#32,
          drdyIn := s.drdyIn.drop budget.toNat, drdyDraws := s.drdyDraws + budget.toNat, resp := some .timeout })

/-- R205: Decode24. -/
def Obligations.Decode24SignExtends : Prop :=
  ∀ b0 b1 b2 : Byte,
    (decode24 b0 b1 b2).toInt =
      (b0.toNat * 65536 + b1.toNat * 256 + b2.toNat : Nat) - (if b0.getLsbD 7 then 16777216 else 0) ∧
    -8388608 ≤ (decode24 b0 b1 b2).toInt ∧ (decode24 b0 b1 b2).toInt ≤ 8388607

/-- R211: RDSAMPLE without ACC. -/
def Obligations.RdsampleReadsThreeBytes : Prop :=
  ∀ s : State, halted s = false → s.pstate = .cont →
    exec (.rdsample false) s = .next
      { transferred 3 (frameEvents s 0 [0xFF#8, 0xFF#8, 0xFF#8]) false s with
        lastSample := decode24 (misoAt s 0) (misoAt s 1) (misoAt s 2), resp := some .ok }

/-- R211, R231: RDSAMPLE ACC is RDSAMPLE and then an update with the sample. -/
def Obligations.RdsampleAccAlsoAccumulates : Prop :=
  ∀ s t : State, halted s = false → s.pstate = .cont → s.stCount ≠ 0xFFFFFFFF#32 →
    exec (.rdsample false) s = .next t → exec (.rdsample true) s = .next (accumulate t.lastSample t)

/-- R231: STUPD, legal in every state; the five running fields, in the order of the rule. -/
def Obligations.StupdIsTheWelfordUpdate : Prop :=
  ∀ (v : BitVec 24) (s : State), halted s = false → s.stCount ≠ 0xFFFFFFFF#32 →
    let x : Word := v.signExtend 32
    let xf := f64OfInt x.toInt
    let delta := f64Sub xf s.stMean
    let mean1 := f64Add s.stMean (f64Div delta (f64OfInt (s.stCount.toNat + 1)))
    exec (.stupd v) s = .next
      { s with
        stCount := s.stCount + 1#32, stMean := mean1,
        stM2 := f64Add s.stM2 (f64Mul delta (f64Sub xf mean1)),
        stMin := if s.stCount = 0#32 then x else if x.toInt < s.stMin.toInt then x else s.stMin,
        stMax := if s.stCount = 0#32 then x else if s.stMax.toInt < x.toInt then x else s.stMax,
        resp := some .ok }

/-- R232: STFIN, legal in every state. What finVar and finStdev hold below two samples, and the other fields at count 0,
follows R232's pseudocode; the spec's list of open points calls these values any value behind finVarValid and
finNonEmpty (U1, U2), so that these clauses are the model's reading (log 16, DEDUCED). -/
def Obligations.StfinTakesTheSnapshot : Prop :=
  ∀ s : State, halted s = false →
    exec .stfin s = .next
      { s with
        finCount := s.stCount, finMean := s.stMean, finMin := s.stMin, finMax := s.stMax,
        finP2P := s.stMax - s.stMin,
        finNonEmpty := decide (1 ≤ s.stCount.toNat), finVarValid := decide (2 ≤ s.stCount.toNat),
        finVar := if 2 ≤ s.stCount.toNat then f64Div s.stM2 (f64OfInt (s.stCount.toNat - 1 : Nat))
                  else 0x7FF8000000000000#64,
        finStdev := if 2 ≤ s.stCount.toNat then f64Sqrt (f64Div s.stM2 (f64OfInt (s.stCount.toNat - 1 : Nat)))
                    else 0x7FF8000000000000#64,
        resp := some .ok }

/-- R233: STCLR, legal in every state; the snapshot is kept. -/
def Obligations.StclrClearsTheRunningFields : Prop :=
  ∀ s : State, halted s = false →
    exec .stclr s = .next
      { s with stCount := 0#32, stMean := 0#64, stM2 := 0#64, stMin := 0#32, stMax := 0#32, resp := some .ok }

/-! ### Rules over all instructions -/

/-- R34: the transition table: an op that proceeds moves pstate as its row says, and otherwise leaves it; INIT moves it
only on the expected identity. Device rows: the model's choice (log 5). -/
def Obligations.TransitionsAreTheTable : Prop :=
  ∀ (i : Instr) (s : State), proceeds i s →
    ∃ t, exec i s = .next t ∧
      t.pstate = if i = .init ∧ (misoAt s 2).extractLsb' 4 4 ≠ s.params.expectedId then s.pstate
                 else ((transitions i s.pstate).head?).getD s.pstate

/-- R36: syncArmed after every op that proceeds (device rows: the model's choice, log 5). -/
def Obligations.SyncArmedMeansLastWasSync : Prop :=
  ∀ (i : Instr) (s : State), proceeds i s →
    ∃ t, exec i s = .next t ∧
      t.syncArmed = (if commandByte i = some 0xFC#8 then true else if opBytes i = 0 then s.syncArmed else false) ∧
      (commandByte i = some 0x00#8 → t.syncPending = (s.syncPending && !s.syncArmed))

/-- R35: syncPending after every op that proceeds, after reset, and the gate before continuous mode, ORDER being bit 2
(R260). Device rows: the model's choice (logs 5 and 6). -/
def Obligations.SyncPendingFollowsMuxChanges : Prop :=
  (∀ (i : Instr) (s : State), proceeds i s →
    ∃ t, exec i s = .next t ∧
      t.syncPending =
        if muxChanging i then true
        else if commandByte i = some 0x00#8 then s.syncPending && !s.syncArmed
        else if commandByte i = some 0xFE#8 ∨ i = .syncwake then false
        else s.syncPending) ∧
  State.reset.syncPending = false ∧
  ∀ s : State, halted s = false → s.syncPending = true →
    exec (.cmd 0x03#8) s = .next (faulted 0b00100#5 0x04000003#32 s)

/-- R39: the shadows change only by CONFIG and SELCH, and are 0 at reset (device rows: the model's choice, logs 5
and 6). -/
def Obligations.ShadowsRecordConfigAndSelch : Prop :=
  (∀ (i : Instr) (s : State), proceeds i s →
    ∃ t, exec i s = .next t ∧
      (t.cfgGain, t.cfgRate, t.cfgChan) =
        match i with
        | .config g r => (g, r, 0#3)
        | .selch ch => (s.cfgGain, s.cfgRate, if ch.toNat ≤ 7 then ch.setWidth 3 else s.cfgChan)
        | _ => (s.cfgGain, s.cfgRate, s.cfgChan)) ∧
  State.reset.cfgGain = 0#3 ∧ State.reset.cfgRate = 0#4 ∧ State.reset.cfgChan = 0#3

/-- R40: lastByte and lastSample (device rows: the model's choice, log 5). -/
def Obligations.LastResultsWriters : Prop :=
  ∀ (i : Instr) (s : State), proceeds i s →
    ∃ t, exec i s = .next t ∧
      t.lastByte = (match i with
        | .init | .rreg _ | .rregDev _ => misoAt s 2
        | _ => s.lastByte) ∧
      t.lastSample = (match i with
        | .rdsample _ => decode24 (misoAt s 0) (misoAt s 1) (misoAt s 2)
        | _ => s.lastSample)

/-- R44: only STCLR, STUPD and RDSAMPLE ACC write the running fields, and only STFIN the snapshot (device rows: the
model's choice, log 5). -/
def Obligations.AccumulatorWriters : Prop :=
  ∀ (i : Instr) (s t : State), exec i s = .next t →
    (i ≠ .stclr → (∀ v, i ≠ .stupd v) → i ≠ .rdsample true →
      t.stCount = s.stCount ∧ t.stMean = s.stMean ∧ t.stM2 = s.stM2 ∧ t.stMin = s.stMin ∧ t.stMax = s.stMax) ∧
    (i ≠ .stfin →
      t.finCount = s.finCount ∧ t.finMean = s.finMean ∧ t.finVar = s.finVar ∧ t.finStdev = s.finStdev ∧
        t.finMin = s.finMin ∧ t.finMax = s.finMax ∧ t.finP2P = s.finP2P ∧ t.finNonEmpty = s.finNonEmpty ∧
        t.finVarValid = s.finVarValid)

/-- R80: the MISO bytes of command and data-out bytes are recorded in the trace and have no other effect: of two
states that differ only in what the device will send, an op that keeps no MISO byte makes two that differ only in that
and in the trace (the draws as fields of State: log 2; device rows: log 5). -/
def Obligations.WriteRepliesAreIgnored : Prop :=
  ∀ (i : Instr) (s t : State) (miso : List Byte) (n : Nat),
    i ≠ .init → (∀ id, i ≠ .rreg id) → (∀ id, i ≠ .rregDev id) → (∀ a, i ≠ .rdsample a) →
    exec i s = .next t →
    ∃ t', exec i { s with misoIn := miso, misoDraws := n } = .next t' ∧
      t = { t' with trace := t.trace, misoIn := t.misoIn, misoDraws := t.misoDraws }

/-- R201: no step but engine reset lowers timeoutCount, and no step raises it by more than 1. -/
def Obligations.TimeoutCountNeverFalls : Prop :=
  ∀ s t : State, step s = .next t → (∀ rest, s.program ≠ .rst :: rest) →
    s.timeoutCount.toNat ≤ t.timeoutCount.toNat ∧ t.timeoutCount.toNat ≤ s.timeoutCount.toNat + 1

/-- R306: a step makes a bounded number of polls: at most 2^24 − 1. -/
def Obligations.EveryStepPollsBoundedly : Prop :=
  ∀ s t : State, step s = .next t → countPolls t.trace ≤ countPolls s.trace + 16777215

/-- R297, R299: continuous mode is entered only from CHSEL, with no mux change pending, by RDATAC (as a frame of its own:
log 5). -/
def Obligations.ContinuousModeIsEnteredOnlySynced : Prop :=
  ∀ s t : State, step s = .next t → s.pstate ≠ .cont → t.pstate = .cont →
    s.pstate = .chsel ∧ s.syncPending = false ∧ halted s = false ∧
      ∃ rest, s.program = .issue 0x04000003#32 :: rest ∨ s.program = .frame [0x03#8] :: rest

/-- R21: no step changes a parameter (parameters as a field of State: log 3). -/
def Obligations.ParametersAreFixed : Prop :=
  ∀ s t : State, step s = .next t → t.params = s.params

/-! ### Invariants -/

/-- Reset meets every invariant below. -/
def Obligations.ResetMeetsTheInvariants : Prop :=
  busInv State.reset ∧ countersInv State.reset ∧ protocolInv State.reset ∧ faultInv State.reset ∧ statsInv State.reset

/-- R83, R84, R43: every step keeps the bus discipline. -/
def Obligations.EveryStepKeepsTheBusWhole : Prop :=
  ∀ s t : State, busInv s → step s = .next t → busInv t

/-- R81, R201: every step keeps the counters equal to what the trace shows. -/
def Obligations.EveryStepKeepsTheCountersTrue : Prop :=
  ∀ s t : State, countersInv s → step s = .next t → countersInv t

/-- R34–R39: every step keeps the protocol invariant. -/
def Obligations.EveryStepKeepsTheProtocol : Prop :=
  ∀ s t : State, protocolInv s → step s = .next t → protocolInv t

/-- R42: at most one fault bit is ever set. -/
def Obligations.AtMostOneFaultIsEverSet : Prop :=
  ∀ s t : State, faultInv s → step s = .next t → faultInv t

/-- R231, R232, R235: every step keeps samples, minimum, maximum and peak-to-peak in range and in agreement. -/
def Obligations.EveryStepKeepsTheStatistics : Prop :=
  ∀ s t : State, statsInv s → step s = .next t → statsInv t

/-! ### Binary64 -/

/-- R14: sum, product and quotient of finite values, where the result is finite, are the nearest binary64 values to the
exact ones. -/
def Obligations.SumProductQuotientAreNearest : Prop :=
  ∀ x y : F64, f64IsFinite x = true → f64IsFinite y = true →
    (f64IsFinite (f64Add x y) = true → nearest (f64Add x y) (f64Units x + f64Units y) 1) ∧
    (f64IsFinite (f64Mul x y) = true → nearest (f64Mul x y) (f64Units x * f64Units y) (2 ^ 1074)) ∧
    (f64Units y ≠ 0 → f64IsFinite (f64Div x y) = true →
      nearest (f64Div x y) (f64Units x * 2 ^ 1074 * (f64Units y).sign) (f64Units y).natAbs)

/-- R14: a tie goes to the even significand: no other finite value is as near as an odd result. -/
def Obligations.TiesGoToEven : Prop :=
  ∀ (neg : Bool) (num den : Nat) (z : F64), 0 < den → f64IsFinite (f64Round neg num den) = true →
    f64IsFinite z = true → f64Units z ≠ f64Units (f64Round neg num den) →
    (f64Units z * den - exactUnits neg num).natAbs = (f64Units (f64Round neg num den) * den - exactUnits neg num).natAbs →
    f64Mant (f64Round neg num den) % 2 = 0

/-- R14, R230: `toF64` is exact for every integer of magnitude at most 2^53. -/
def Obligations.IntegersConvertExactly : Prop :=
  ∀ i : Int, i.natAbs ≤ 2 ^ 53 → f64IsFinite (f64OfInt i) = true ∧ f64Units (f64OfInt i) = i * 2 ^ 1074

/-- R14, R230: `sqrt_f` of a finite positive value is the nearest binary64 value to the real square root (a value of
u units of 2^-1074 has the root √(u · 2^1074) units); the root of +0 is +0; a negative nonzero operand gives QNAN. -/
def Obligations.SquareRootIsNearest : Prop :=
  (∀ x : F64, f64IsFinite x = true → 0 < f64Units x →
    f64IsFinite (f64Sqrt x) = true ∧
    ∀ z : F64, f64IsFinite z = true →
      |(f64Units (f64Sqrt x) : ℝ) - Real.sqrt ((f64Units x : ℝ) * 2 ^ 1074)| ≤
        |(f64Units z : ℝ) - Real.sqrt ((f64Units x : ℝ) * 2 ^ 1074)|) ∧
  f64Sqrt 0#64 = 0#64 ∧
  ∀ x : F64, f64IsNaN x = false → f64IsZero x = false → f64Sign x = true → f64Sqrt x = 0x7FF8000000000000#64

/-- R231: the first update after a clear sets mean = x exactly and m2 = +0, and min = max = x. -/
def Obligations.FirstUpdateIsExact : Prop :=
  ∀ (v : BitVec 24) (s : State), halted s = false → s.stCount = 0#32 → s.stMean = 0#64 → s.stM2 = 0#64 →
    exec (.stupd v) s = .next
      { s with
        stCount := 1#32, stMean := f64OfInt v.toInt, stM2 := 0#64, stMin := v.signExtend 32,
        stMax := v.signExtend 32, resp := some .ok }

/-- R231: a sample equal to the mean gives delta = 0 and leaves the mean and m2 unchanged. -/
def Obligations.EqualSampleLeavesTheSpread : Prop :=
  ∀ (v : BitVec 24) (s t : State), halted s = false → s.stCount ≠ 0xFFFFFFFF#32 → s.stMean = f64OfInt v.toInt →
    f64IsNaN s.stM2 = false → s.stM2 ≠ 0x8000000000000000#64 → exec (.stupd v) s = .next t →
    t.stMean = s.stMean ∧ t.stM2 = s.stM2
end

