-- ==== Sys2Proof/Laws/Encoding.lean ====
section
/-! SUPPORT. The fields of a host word, and of the DCR command bytes: what the decoder's extractions read from what the
encoder wrote. -/

namespace Sys2Proof

/-- One bit of a host word whose operand fields lie in [23:0]. -/
theorem hostWord_getLsbD (opc : Byte) (f : Word) (i : Nat) :
    (hostWord opc f).getLsbD i = ((decide (24 ≤ i) && opc.getLsbD (i - 24)) || f.getLsbD i) := by
  simp only [hostWord, BitVec.getLsbD_or, BitVec.getLsbD_shiftLeft, BitVec.getLsbD_setWidth]
  by_cases h : i < 24
  · simp [h]
  · by_cases h2 : i < 32
    · have h3 : i - 24 < 32 := by omega
      simp [h, h2, h3, Nat.not_lt.mp h]
    · have h3 : opc.getLsbD (i - 24) = false := BitVec.getLsbD_of_ge _ _ (by omega)
      simp [h3]

/-- One bit of a field. -/
theorem fieldAt_getLsbD {n : Nat} (lo : Nat) (v : BitVec n) (i : Nat) :
    (fieldAt lo v).getLsbD i = (decide (i < 32) && decide (lo ≤ i) && v.getLsbD (i - lo)) := by
  simp only [fieldAt, BitVec.getLsbD_shiftLeft, BitVec.getLsbD_setWidth]
  by_cases h : i < 32
  · by_cases h2 : i < lo
    · simp [h, h2, Nat.not_le.mpr h2]
    · have h3 : i - lo < 32 := by omega
      simp [h, h2, h3, Nat.not_lt.mp h2]
  · simp [h]

theorem hostWord_opcode (opc : Byte) (f : Word) (h : ∀ i, 24 ≤ i → f.getLsbD i = false) :
    (hostWord opc f).extractLsb' 24 8 = opc := by
  apply BitVec.eq_of_getLsbD_eq
  intro i hi
  have := h (24 + i) (by omega)
  simp only [BitVec.getLsbD_extractLsb', hostWord_getLsbD, hi, this]
  simp

theorem hostWord_field (opc : Byte) (f : Word) (lo n : Nat) (h : lo + n ≤ 24) :
    (hostWord opc f).extractLsb' lo n = f.extractLsb' lo n := by
  apply BitVec.eq_of_getLsbD_eq
  intro i hi
  have h1 : ¬ 24 ≤ lo + i := by omega
  simp [hostWord_getLsbD, h1]

/-- A word is its opcode and its 24 operand bits. -/
theorem hostWord_split (w : Word) : hostWord (w.extractLsb' 24 8) (fieldAt 0 (w.extractLsb' 0 24)) = w := by
  apply BitVec.eq_of_getLsbD_eq
  intro i hi
  rw [hostWord_getLsbD, fieldAt_getLsbD]
  by_cases h : i < 24
  · simp [h, hi]
  · have h1 : i - 24 < 8 := by omega
    have h2 : 24 + (i - 24) = i := by omega
    simp [h1, h2, hi, Nat.not_lt.mp h]

theorem rregByte_high (id : BitVec 4) : (rregByte id).extractLsb' 4 4 = 0x1#4 := by
  revert id
  decide

theorem rregByte_low (id : BitVec 4) : (rregByte id).extractLsb' 0 4 = id := by
  revert id
  decide

theorem wregByte_high (id : BitVec 4) : (wregByte id).extractLsb' 4 4 = 0x5#4 := by
  revert id
  decide

theorem wregByte_low (id : BitVec 4) : (wregByte id).extractLsb' 0 4 = id := by
  revert id
  decide

theorem countByte_toNat {n : Nat} (h : n ≤ 256) : (countByte n).toNat = n - 1 := by
  simp [countByte]
  omega

end Sys2Proof
end

