-- ==== Sys2Proof/Laws/State.lean ====
section
/-! SUPPORT. One lemma per field of State per update, all by rfl, so that no proof unfolds a record update. The
composed operations of Machine/Ops.lean (csLow, csHigh, delay, byte, …) have theirs in Laws/Ops.lean. -/

namespace Sys2Proof.Machine

variable (s : State)

/-! ### respond -/

@[simp] theorem respond_pstate (r : Status) : (respond r s).pstate = s.pstate := rfl
@[simp] theorem respond_syncPending (r : Status) : (respond r s).syncPending = s.syncPending := rfl
@[simp] theorem respond_syncArmed (r : Status) : (respond r s).syncArmed = s.syncArmed := rfl
@[simp] theorem respond_cfgGain (r : Status) : (respond r s).cfgGain = s.cfgGain := rfl
@[simp] theorem respond_cfgRate (r : Status) : (respond r s).cfgRate = s.cfgRate := rfl
@[simp] theorem respond_cfgChan (r : Status) : (respond r s).cfgChan = s.cfgChan := rfl
@[simp] theorem respond_lastByte (r : Status) : (respond r s).lastByte = s.lastByte := rfl
@[simp] theorem respond_lastSample (r : Status) : (respond r s).lastSample = s.lastSample := rfl
@[simp] theorem respond_lastWaitTimeout (r : Status) : (respond r s).lastWaitTimeout = s.lastWaitTimeout := rfl
@[simp] theorem respond_lastPolls (r : Status) : (respond r s).lastPolls = s.lastPolls := rfl
@[simp] theorem respond_timeoutCount (r : Status) : (respond r s).timeoutCount = s.timeoutCount := rfl
@[simp] theorem respond_xferCount (r : Status) : (respond r s).xferCount = s.xferCount := rfl
@[simp] theorem respond_faults (r : Status) : (respond r s).faults = s.faults := rfl
@[simp] theorem respond_faultWord (r : Status) : (respond r s).faultWord = s.faultWord := rfl
@[simp] theorem respond_stCount (r : Status) : (respond r s).stCount = s.stCount := rfl
@[simp] theorem respond_stMean (r : Status) : (respond r s).stMean = s.stMean := rfl
@[simp] theorem respond_stM2 (r : Status) : (respond r s).stM2 = s.stM2 := rfl
@[simp] theorem respond_stMin (r : Status) : (respond r s).stMin = s.stMin := rfl
@[simp] theorem respond_stMax (r : Status) : (respond r s).stMax = s.stMax := rfl
@[simp] theorem respond_finCount (r : Status) : (respond r s).finCount = s.finCount := rfl
@[simp] theorem respond_finMean (r : Status) : (respond r s).finMean = s.finMean := rfl
@[simp] theorem respond_finVar (r : Status) : (respond r s).finVar = s.finVar := rfl
@[simp] theorem respond_finStdev (r : Status) : (respond r s).finStdev = s.finStdev := rfl
@[simp] theorem respond_finMin (r : Status) : (respond r s).finMin = s.finMin := rfl
@[simp] theorem respond_finMax (r : Status) : (respond r s).finMax = s.finMax := rfl
@[simp] theorem respond_finP2P (r : Status) : (respond r s).finP2P = s.finP2P := rfl
@[simp] theorem respond_finNonEmpty (r : Status) : (respond r s).finNonEmpty = s.finNonEmpty := rfl
@[simp] theorem respond_finVarValid (r : Status) : (respond r s).finVarValid = s.finVarValid := rfl
@[simp] theorem respond_csN (r : Status) : (respond r s).csN = s.csN := rfl
@[simp] theorem respond_resetN (r : Status) : (respond r s).resetN = s.resetN := rfl
@[simp] theorem respond_trace (r : Status) : (respond r s).trace = s.trace := rfl
@[simp] theorem respond_params (r : Status) : (respond r s).params = s.params := rfl
@[simp] theorem respond_program (r : Status) : (respond r s).program = s.program := rfl
@[simp] theorem respond_resp (r : Status) : (respond r s).resp = some r := rfl
@[simp] theorem respond_readData (r : Status) : (respond r s).readData = s.readData := rfl
@[simp] theorem respond_misoIn (r : Status) : (respond r s).misoIn = s.misoIn := rfl
@[simp] theorem respond_drdyIn (r : Status) : (respond r s).drdyIn = s.drdyIn := rfl
@[simp] theorem respond_misoDraws (r : Status) : (respond r s).misoDraws = s.misoDraws := rfl
@[simp] theorem respond_drdyDraws (r : Status) : (respond r s).drdyDraws = s.drdyDraws := rfl

/-! ### raise -/

@[simp] theorem raise_pstate (c : FaultCode) (w : Word) : (raise c w s).pstate = s.pstate := rfl
@[simp] theorem raise_syncPending (c : FaultCode) (w : Word) : (raise c w s).syncPending = s.syncPending := rfl
@[simp] theorem raise_syncArmed (c : FaultCode) (w : Word) : (raise c w s).syncArmed = s.syncArmed := rfl
@[simp] theorem raise_cfgGain (c : FaultCode) (w : Word) : (raise c w s).cfgGain = s.cfgGain := rfl
@[simp] theorem raise_cfgRate (c : FaultCode) (w : Word) : (raise c w s).cfgRate = s.cfgRate := rfl
@[simp] theorem raise_cfgChan (c : FaultCode) (w : Word) : (raise c w s).cfgChan = s.cfgChan := rfl
@[simp] theorem raise_lastByte (c : FaultCode) (w : Word) : (raise c w s).lastByte = s.lastByte := rfl
@[simp] theorem raise_lastSample (c : FaultCode) (w : Word) : (raise c w s).lastSample = s.lastSample := rfl
@[simp] theorem raise_lastWaitTimeout (c : FaultCode) (w : Word) : (raise c w s).lastWaitTimeout = s.lastWaitTimeout := rfl
@[simp] theorem raise_lastPolls (c : FaultCode) (w : Word) : (raise c w s).lastPolls = s.lastPolls := rfl
@[simp] theorem raise_timeoutCount (c : FaultCode) (w : Word) : (raise c w s).timeoutCount = s.timeoutCount := rfl
@[simp] theorem raise_xferCount (c : FaultCode) (w : Word) : (raise c w s).xferCount = s.xferCount := rfl
@[simp] theorem raise_faults (c : FaultCode) (w : Word) : (raise c w s).faults = s.faults ||| faultBit c := rfl
@[simp] theorem raise_faultWord (c : FaultCode) (w : Word) : (raise c w s).faultWord = w := rfl
@[simp] theorem raise_stCount (c : FaultCode) (w : Word) : (raise c w s).stCount = s.stCount := rfl
@[simp] theorem raise_stMean (c : FaultCode) (w : Word) : (raise c w s).stMean = s.stMean := rfl
@[simp] theorem raise_stM2 (c : FaultCode) (w : Word) : (raise c w s).stM2 = s.stM2 := rfl
@[simp] theorem raise_stMin (c : FaultCode) (w : Word) : (raise c w s).stMin = s.stMin := rfl
@[simp] theorem raise_stMax (c : FaultCode) (w : Word) : (raise c w s).stMax = s.stMax := rfl
@[simp] theorem raise_finCount (c : FaultCode) (w : Word) : (raise c w s).finCount = s.finCount := rfl
@[simp] theorem raise_finMean (c : FaultCode) (w : Word) : (raise c w s).finMean = s.finMean := rfl
@[simp] theorem raise_finVar (c : FaultCode) (w : Word) : (raise c w s).finVar = s.finVar := rfl
@[simp] theorem raise_finStdev (c : FaultCode) (w : Word) : (raise c w s).finStdev = s.finStdev := rfl
@[simp] theorem raise_finMin (c : FaultCode) (w : Word) : (raise c w s).finMin = s.finMin := rfl
@[simp] theorem raise_finMax (c : FaultCode) (w : Word) : (raise c w s).finMax = s.finMax := rfl
@[simp] theorem raise_finP2P (c : FaultCode) (w : Word) : (raise c w s).finP2P = s.finP2P := rfl
@[simp] theorem raise_finNonEmpty (c : FaultCode) (w : Word) : (raise c w s).finNonEmpty = s.finNonEmpty := rfl
@[simp] theorem raise_finVarValid (c : FaultCode) (w : Word) : (raise c w s).finVarValid = s.finVarValid := rfl
@[simp] theorem raise_csN (c : FaultCode) (w : Word) : (raise c w s).csN = s.csN := rfl
@[simp] theorem raise_resetN (c : FaultCode) (w : Word) : (raise c w s).resetN = s.resetN := rfl
@[simp] theorem raise_trace (c : FaultCode) (w : Word) : (raise c w s).trace = s.trace := rfl
@[simp] theorem raise_params (c : FaultCode) (w : Word) : (raise c w s).params = s.params := rfl
@[simp] theorem raise_program (c : FaultCode) (w : Word) : (raise c w s).program = s.program := rfl
@[simp] theorem raise_resp (c : FaultCode) (w : Word) : (raise c w s).resp = some .fault := rfl
@[simp] theorem raise_readData (c : FaultCode) (w : Word) : (raise c w s).readData = s.readData := rfl
@[simp] theorem raise_misoIn (c : FaultCode) (w : Word) : (raise c w s).misoIn = s.misoIn := rfl
@[simp] theorem raise_drdyIn (c : FaultCode) (w : Word) : (raise c w s).drdyIn = s.drdyIn := rfl
@[simp] theorem raise_misoDraws (c : FaultCode) (w : Word) : (raise c w s).misoDraws = s.misoDraws := rfl
@[simp] theorem raise_drdyDraws (c : FaultCode) (w : Word) : (raise c w s).drdyDraws = s.drdyDraws := rfl

/-! ### emit -/

@[simp] theorem emit_pstate (e : Event) : (emit e s).pstate = s.pstate := rfl
@[simp] theorem emit_syncPending (e : Event) : (emit e s).syncPending = s.syncPending := rfl
@[simp] theorem emit_syncArmed (e : Event) : (emit e s).syncArmed = s.syncArmed := rfl
@[simp] theorem emit_cfgGain (e : Event) : (emit e s).cfgGain = s.cfgGain := rfl
@[simp] theorem emit_cfgRate (e : Event) : (emit e s).cfgRate = s.cfgRate := rfl
@[simp] theorem emit_cfgChan (e : Event) : (emit e s).cfgChan = s.cfgChan := rfl
@[simp] theorem emit_lastByte (e : Event) : (emit e s).lastByte = s.lastByte := rfl
@[simp] theorem emit_lastSample (e : Event) : (emit e s).lastSample = s.lastSample := rfl
@[simp] theorem emit_lastWaitTimeout (e : Event) : (emit e s).lastWaitTimeout = s.lastWaitTimeout := rfl
@[simp] theorem emit_lastPolls (e : Event) : (emit e s).lastPolls = s.lastPolls := rfl
@[simp] theorem emit_timeoutCount (e : Event) : (emit e s).timeoutCount = s.timeoutCount := rfl
@[simp] theorem emit_xferCount (e : Event) : (emit e s).xferCount = s.xferCount := rfl
@[simp] theorem emit_faults (e : Event) : (emit e s).faults = s.faults := rfl
@[simp] theorem emit_faultWord (e : Event) : (emit e s).faultWord = s.faultWord := rfl
@[simp] theorem emit_stCount (e : Event) : (emit e s).stCount = s.stCount := rfl
@[simp] theorem emit_stMean (e : Event) : (emit e s).stMean = s.stMean := rfl
@[simp] theorem emit_stM2 (e : Event) : (emit e s).stM2 = s.stM2 := rfl
@[simp] theorem emit_stMin (e : Event) : (emit e s).stMin = s.stMin := rfl
@[simp] theorem emit_stMax (e : Event) : (emit e s).stMax = s.stMax := rfl
@[simp] theorem emit_finCount (e : Event) : (emit e s).finCount = s.finCount := rfl
@[simp] theorem emit_finMean (e : Event) : (emit e s).finMean = s.finMean := rfl
@[simp] theorem emit_finVar (e : Event) : (emit e s).finVar = s.finVar := rfl
@[simp] theorem emit_finStdev (e : Event) : (emit e s).finStdev = s.finStdev := rfl
@[simp] theorem emit_finMin (e : Event) : (emit e s).finMin = s.finMin := rfl
@[simp] theorem emit_finMax (e : Event) : (emit e s).finMax = s.finMax := rfl
@[simp] theorem emit_finP2P (e : Event) : (emit e s).finP2P = s.finP2P := rfl
@[simp] theorem emit_finNonEmpty (e : Event) : (emit e s).finNonEmpty = s.finNonEmpty := rfl
@[simp] theorem emit_finVarValid (e : Event) : (emit e s).finVarValid = s.finVarValid := rfl
@[simp] theorem emit_csN (e : Event) : (emit e s).csN = s.csN := rfl
@[simp] theorem emit_resetN (e : Event) : (emit e s).resetN = s.resetN := rfl
@[simp] theorem emit_trace (e : Event) : (emit e s).trace = s.trace ++ [e] := rfl
@[simp] theorem emit_params (e : Event) : (emit e s).params = s.params := rfl
@[simp] theorem emit_program (e : Event) : (emit e s).program = s.program := rfl
@[simp] theorem emit_resp (e : Event) : (emit e s).resp = s.resp := rfl
@[simp] theorem emit_readData (e : Event) : (emit e s).readData = s.readData := rfl
@[simp] theorem emit_misoIn (e : Event) : (emit e s).misoIn = s.misoIn := rfl
@[simp] theorem emit_drdyIn (e : Event) : (emit e s).drdyIn = s.drdyIn := rfl
@[simp] theorem emit_misoDraws (e : Event) : (emit e s).misoDraws = s.misoDraws := rfl
@[simp] theorem emit_drdyDraws (e : Event) : (emit e s).drdyDraws = s.drdyDraws := rfl

/-! ### setCs -/

@[simp] theorem setCs_pstate (l : Bool) : (setCs l s).pstate = s.pstate := rfl
@[simp] theorem setCs_syncPending (l : Bool) : (setCs l s).syncPending = s.syncPending := rfl
@[simp] theorem setCs_syncArmed (l : Bool) : (setCs l s).syncArmed = s.syncArmed := rfl
@[simp] theorem setCs_cfgGain (l : Bool) : (setCs l s).cfgGain = s.cfgGain := rfl
@[simp] theorem setCs_cfgRate (l : Bool) : (setCs l s).cfgRate = s.cfgRate := rfl
@[simp] theorem setCs_cfgChan (l : Bool) : (setCs l s).cfgChan = s.cfgChan := rfl
@[simp] theorem setCs_lastByte (l : Bool) : (setCs l s).lastByte = s.lastByte := rfl
@[simp] theorem setCs_lastSample (l : Bool) : (setCs l s).lastSample = s.lastSample := rfl
@[simp] theorem setCs_lastWaitTimeout (l : Bool) : (setCs l s).lastWaitTimeout = s.lastWaitTimeout := rfl
@[simp] theorem setCs_lastPolls (l : Bool) : (setCs l s).lastPolls = s.lastPolls := rfl
@[simp] theorem setCs_timeoutCount (l : Bool) : (setCs l s).timeoutCount = s.timeoutCount := rfl
@[simp] theorem setCs_xferCount (l : Bool) : (setCs l s).xferCount = s.xferCount := rfl
@[simp] theorem setCs_faults (l : Bool) : (setCs l s).faults = s.faults := rfl
@[simp] theorem setCs_faultWord (l : Bool) : (setCs l s).faultWord = s.faultWord := rfl
@[simp] theorem setCs_stCount (l : Bool) : (setCs l s).stCount = s.stCount := rfl
@[simp] theorem setCs_stMean (l : Bool) : (setCs l s).stMean = s.stMean := rfl
@[simp] theorem setCs_stM2 (l : Bool) : (setCs l s).stM2 = s.stM2 := rfl
@[simp] theorem setCs_stMin (l : Bool) : (setCs l s).stMin = s.stMin := rfl
@[simp] theorem setCs_stMax (l : Bool) : (setCs l s).stMax = s.stMax := rfl
@[simp] theorem setCs_finCount (l : Bool) : (setCs l s).finCount = s.finCount := rfl
@[simp] theorem setCs_finMean (l : Bool) : (setCs l s).finMean = s.finMean := rfl
@[simp] theorem setCs_finVar (l : Bool) : (setCs l s).finVar = s.finVar := rfl
@[simp] theorem setCs_finStdev (l : Bool) : (setCs l s).finStdev = s.finStdev := rfl
@[simp] theorem setCs_finMin (l : Bool) : (setCs l s).finMin = s.finMin := rfl
@[simp] theorem setCs_finMax (l : Bool) : (setCs l s).finMax = s.finMax := rfl
@[simp] theorem setCs_finP2P (l : Bool) : (setCs l s).finP2P = s.finP2P := rfl
@[simp] theorem setCs_finNonEmpty (l : Bool) : (setCs l s).finNonEmpty = s.finNonEmpty := rfl
@[simp] theorem setCs_finVarValid (l : Bool) : (setCs l s).finVarValid = s.finVarValid := rfl
@[simp] theorem setCs_csN (l : Bool) : (setCs l s).csN = l := rfl
@[simp] theorem setCs_resetN (l : Bool) : (setCs l s).resetN = s.resetN := rfl
@[simp] theorem setCs_trace (l : Bool) : (setCs l s).trace = s.trace := rfl
@[simp] theorem setCs_params (l : Bool) : (setCs l s).params = s.params := rfl
@[simp] theorem setCs_program (l : Bool) : (setCs l s).program = s.program := rfl
@[simp] theorem setCs_resp (l : Bool) : (setCs l s).resp = s.resp := rfl
@[simp] theorem setCs_readData (l : Bool) : (setCs l s).readData = s.readData := rfl
@[simp] theorem setCs_misoIn (l : Bool) : (setCs l s).misoIn = s.misoIn := rfl
@[simp] theorem setCs_drdyIn (l : Bool) : (setCs l s).drdyIn = s.drdyIn := rfl
@[simp] theorem setCs_misoDraws (l : Bool) : (setCs l s).misoDraws = s.misoDraws := rfl
@[simp] theorem setCs_drdyDraws (l : Bool) : (setCs l s).drdyDraws = s.drdyDraws := rfl

/-! ### dropMiso -/

@[simp] theorem dropMiso_pstate : (dropMiso s).pstate = s.pstate := rfl
@[simp] theorem dropMiso_syncPending : (dropMiso s).syncPending = s.syncPending := rfl
@[simp] theorem dropMiso_syncArmed : (dropMiso s).syncArmed = s.syncArmed := rfl
@[simp] theorem dropMiso_cfgGain : (dropMiso s).cfgGain = s.cfgGain := rfl
@[simp] theorem dropMiso_cfgRate : (dropMiso s).cfgRate = s.cfgRate := rfl
@[simp] theorem dropMiso_cfgChan : (dropMiso s).cfgChan = s.cfgChan := rfl
@[simp] theorem dropMiso_lastByte : (dropMiso s).lastByte = s.lastByte := rfl
@[simp] theorem dropMiso_lastSample : (dropMiso s).lastSample = s.lastSample := rfl
@[simp] theorem dropMiso_lastWaitTimeout : (dropMiso s).lastWaitTimeout = s.lastWaitTimeout := rfl
@[simp] theorem dropMiso_lastPolls : (dropMiso s).lastPolls = s.lastPolls := rfl
@[simp] theorem dropMiso_timeoutCount : (dropMiso s).timeoutCount = s.timeoutCount := rfl
@[simp] theorem dropMiso_xferCount : (dropMiso s).xferCount = s.xferCount := rfl
@[simp] theorem dropMiso_faults : (dropMiso s).faults = s.faults := rfl
@[simp] theorem dropMiso_faultWord : (dropMiso s).faultWord = s.faultWord := rfl
@[simp] theorem dropMiso_stCount : (dropMiso s).stCount = s.stCount := rfl
@[simp] theorem dropMiso_stMean : (dropMiso s).stMean = s.stMean := rfl
@[simp] theorem dropMiso_stM2 : (dropMiso s).stM2 = s.stM2 := rfl
@[simp] theorem dropMiso_stMin : (dropMiso s).stMin = s.stMin := rfl
@[simp] theorem dropMiso_stMax : (dropMiso s).stMax = s.stMax := rfl
@[simp] theorem dropMiso_finCount : (dropMiso s).finCount = s.finCount := rfl
@[simp] theorem dropMiso_finMean : (dropMiso s).finMean = s.finMean := rfl
@[simp] theorem dropMiso_finVar : (dropMiso s).finVar = s.finVar := rfl
@[simp] theorem dropMiso_finStdev : (dropMiso s).finStdev = s.finStdev := rfl
@[simp] theorem dropMiso_finMin : (dropMiso s).finMin = s.finMin := rfl
@[simp] theorem dropMiso_finMax : (dropMiso s).finMax = s.finMax := rfl
@[simp] theorem dropMiso_finP2P : (dropMiso s).finP2P = s.finP2P := rfl
@[simp] theorem dropMiso_finNonEmpty : (dropMiso s).finNonEmpty = s.finNonEmpty := rfl
@[simp] theorem dropMiso_finVarValid : (dropMiso s).finVarValid = s.finVarValid := rfl
@[simp] theorem dropMiso_csN : (dropMiso s).csN = s.csN := rfl
@[simp] theorem dropMiso_resetN : (dropMiso s).resetN = s.resetN := rfl
@[simp] theorem dropMiso_trace : (dropMiso s).trace = s.trace := rfl
@[simp] theorem dropMiso_params : (dropMiso s).params = s.params := rfl
@[simp] theorem dropMiso_program : (dropMiso s).program = s.program := rfl
@[simp] theorem dropMiso_resp : (dropMiso s).resp = s.resp := rfl
@[simp] theorem dropMiso_readData : (dropMiso s).readData = s.readData := rfl
@[simp] theorem dropMiso_misoIn : (dropMiso s).misoIn = s.misoIn.tail := rfl
@[simp] theorem dropMiso_drdyIn : (dropMiso s).drdyIn = s.drdyIn := rfl
@[simp] theorem dropMiso_misoDraws : (dropMiso s).misoDraws = s.misoDraws + 1 := rfl
@[simp] theorem dropMiso_drdyDraws : (dropMiso s).drdyDraws = s.drdyDraws := rfl

/-! ### dropDrdy -/

@[simp] theorem dropDrdy_pstate : (dropDrdy s).pstate = s.pstate := rfl
@[simp] theorem dropDrdy_syncPending : (dropDrdy s).syncPending = s.syncPending := rfl
@[simp] theorem dropDrdy_syncArmed : (dropDrdy s).syncArmed = s.syncArmed := rfl
@[simp] theorem dropDrdy_cfgGain : (dropDrdy s).cfgGain = s.cfgGain := rfl
@[simp] theorem dropDrdy_cfgRate : (dropDrdy s).cfgRate = s.cfgRate := rfl
@[simp] theorem dropDrdy_cfgChan : (dropDrdy s).cfgChan = s.cfgChan := rfl
@[simp] theorem dropDrdy_lastByte : (dropDrdy s).lastByte = s.lastByte := rfl
@[simp] theorem dropDrdy_lastSample : (dropDrdy s).lastSample = s.lastSample := rfl
@[simp] theorem dropDrdy_lastWaitTimeout : (dropDrdy s).lastWaitTimeout = s.lastWaitTimeout := rfl
@[simp] theorem dropDrdy_lastPolls : (dropDrdy s).lastPolls = s.lastPolls := rfl
@[simp] theorem dropDrdy_timeoutCount : (dropDrdy s).timeoutCount = s.timeoutCount := rfl
@[simp] theorem dropDrdy_xferCount : (dropDrdy s).xferCount = s.xferCount := rfl
@[simp] theorem dropDrdy_faults : (dropDrdy s).faults = s.faults := rfl
@[simp] theorem dropDrdy_faultWord : (dropDrdy s).faultWord = s.faultWord := rfl
@[simp] theorem dropDrdy_stCount : (dropDrdy s).stCount = s.stCount := rfl
@[simp] theorem dropDrdy_stMean : (dropDrdy s).stMean = s.stMean := rfl
@[simp] theorem dropDrdy_stM2 : (dropDrdy s).stM2 = s.stM2 := rfl
@[simp] theorem dropDrdy_stMin : (dropDrdy s).stMin = s.stMin := rfl
@[simp] theorem dropDrdy_stMax : (dropDrdy s).stMax = s.stMax := rfl
@[simp] theorem dropDrdy_finCount : (dropDrdy s).finCount = s.finCount := rfl
@[simp] theorem dropDrdy_finMean : (dropDrdy s).finMean = s.finMean := rfl
@[simp] theorem dropDrdy_finVar : (dropDrdy s).finVar = s.finVar := rfl
@[simp] theorem dropDrdy_finStdev : (dropDrdy s).finStdev = s.finStdev := rfl
@[simp] theorem dropDrdy_finMin : (dropDrdy s).finMin = s.finMin := rfl
@[simp] theorem dropDrdy_finMax : (dropDrdy s).finMax = s.finMax := rfl
@[simp] theorem dropDrdy_finP2P : (dropDrdy s).finP2P = s.finP2P := rfl
@[simp] theorem dropDrdy_finNonEmpty : (dropDrdy s).finNonEmpty = s.finNonEmpty := rfl
@[simp] theorem dropDrdy_finVarValid : (dropDrdy s).finVarValid = s.finVarValid := rfl
@[simp] theorem dropDrdy_csN : (dropDrdy s).csN = s.csN := rfl
@[simp] theorem dropDrdy_resetN : (dropDrdy s).resetN = s.resetN := rfl
@[simp] theorem dropDrdy_trace : (dropDrdy s).trace = s.trace := rfl
@[simp] theorem dropDrdy_params : (dropDrdy s).params = s.params := rfl
@[simp] theorem dropDrdy_program : (dropDrdy s).program = s.program := rfl
@[simp] theorem dropDrdy_resp : (dropDrdy s).resp = s.resp := rfl
@[simp] theorem dropDrdy_readData : (dropDrdy s).readData = s.readData := rfl
@[simp] theorem dropDrdy_misoIn : (dropDrdy s).misoIn = s.misoIn := rfl
@[simp] theorem dropDrdy_drdyIn : (dropDrdy s).drdyIn = s.drdyIn.tail := rfl
@[simp] theorem dropDrdy_misoDraws : (dropDrdy s).misoDraws = s.misoDraws := rfl
@[simp] theorem dropDrdy_drdyDraws : (dropDrdy s).drdyDraws = s.drdyDraws + 1 := rfl

/-! ### countXfer -/

@[simp] theorem countXfer_pstate : (countXfer s).pstate = s.pstate := rfl
@[simp] theorem countXfer_syncPending : (countXfer s).syncPending = s.syncPending := rfl
@[simp] theorem countXfer_syncArmed : (countXfer s).syncArmed = s.syncArmed := rfl
@[simp] theorem countXfer_cfgGain : (countXfer s).cfgGain = s.cfgGain := rfl
@[simp] theorem countXfer_cfgRate : (countXfer s).cfgRate = s.cfgRate := rfl
@[simp] theorem countXfer_cfgChan : (countXfer s).cfgChan = s.cfgChan := rfl
@[simp] theorem countXfer_lastByte : (countXfer s).lastByte = s.lastByte := rfl
@[simp] theorem countXfer_lastSample : (countXfer s).lastSample = s.lastSample := rfl
@[simp] theorem countXfer_lastWaitTimeout : (countXfer s).lastWaitTimeout = s.lastWaitTimeout := rfl
@[simp] theorem countXfer_lastPolls : (countXfer s).lastPolls = s.lastPolls := rfl
@[simp] theorem countXfer_timeoutCount : (countXfer s).timeoutCount = s.timeoutCount := rfl
@[simp] theorem countXfer_xferCount : (countXfer s).xferCount = s.xferCount + 1#32 := rfl
@[simp] theorem countXfer_faults : (countXfer s).faults = s.faults := rfl
@[simp] theorem countXfer_faultWord : (countXfer s).faultWord = s.faultWord := rfl
@[simp] theorem countXfer_stCount : (countXfer s).stCount = s.stCount := rfl
@[simp] theorem countXfer_stMean : (countXfer s).stMean = s.stMean := rfl
@[simp] theorem countXfer_stM2 : (countXfer s).stM2 = s.stM2 := rfl
@[simp] theorem countXfer_stMin : (countXfer s).stMin = s.stMin := rfl
@[simp] theorem countXfer_stMax : (countXfer s).stMax = s.stMax := rfl
@[simp] theorem countXfer_finCount : (countXfer s).finCount = s.finCount := rfl
@[simp] theorem countXfer_finMean : (countXfer s).finMean = s.finMean := rfl
@[simp] theorem countXfer_finVar : (countXfer s).finVar = s.finVar := rfl
@[simp] theorem countXfer_finStdev : (countXfer s).finStdev = s.finStdev := rfl
@[simp] theorem countXfer_finMin : (countXfer s).finMin = s.finMin := rfl
@[simp] theorem countXfer_finMax : (countXfer s).finMax = s.finMax := rfl
@[simp] theorem countXfer_finP2P : (countXfer s).finP2P = s.finP2P := rfl
@[simp] theorem countXfer_finNonEmpty : (countXfer s).finNonEmpty = s.finNonEmpty := rfl
@[simp] theorem countXfer_finVarValid : (countXfer s).finVarValid = s.finVarValid := rfl
@[simp] theorem countXfer_csN : (countXfer s).csN = s.csN := rfl
@[simp] theorem countXfer_resetN : (countXfer s).resetN = s.resetN := rfl
@[simp] theorem countXfer_trace : (countXfer s).trace = s.trace := rfl
@[simp] theorem countXfer_params : (countXfer s).params = s.params := rfl
@[simp] theorem countXfer_program : (countXfer s).program = s.program := rfl
@[simp] theorem countXfer_resp : (countXfer s).resp = s.resp := rfl
@[simp] theorem countXfer_readData : (countXfer s).readData = s.readData := rfl
@[simp] theorem countXfer_misoIn : (countXfer s).misoIn = s.misoIn := rfl
@[simp] theorem countXfer_drdyIn : (countXfer s).drdyIn = s.drdyIn := rfl
@[simp] theorem countXfer_misoDraws : (countXfer s).misoDraws = s.misoDraws := rfl
@[simp] theorem countXfer_drdyDraws : (countXfer s).drdyDraws = s.drdyDraws := rfl

/-! ### setArmed -/

@[simp] theorem setArmed_pstate (a : Bool) : (setArmed a s).pstate = s.pstate := rfl
@[simp] theorem setArmed_syncPending (a : Bool) : (setArmed a s).syncPending = s.syncPending := rfl
@[simp] theorem setArmed_syncArmed (a : Bool) : (setArmed a s).syncArmed = a := rfl
@[simp] theorem setArmed_cfgGain (a : Bool) : (setArmed a s).cfgGain = s.cfgGain := rfl
@[simp] theorem setArmed_cfgRate (a : Bool) : (setArmed a s).cfgRate = s.cfgRate := rfl
@[simp] theorem setArmed_cfgChan (a : Bool) : (setArmed a s).cfgChan = s.cfgChan := rfl
@[simp] theorem setArmed_lastByte (a : Bool) : (setArmed a s).lastByte = s.lastByte := rfl
@[simp] theorem setArmed_lastSample (a : Bool) : (setArmed a s).lastSample = s.lastSample := rfl
@[simp] theorem setArmed_lastWaitTimeout (a : Bool) : (setArmed a s).lastWaitTimeout = s.lastWaitTimeout := rfl
@[simp] theorem setArmed_lastPolls (a : Bool) : (setArmed a s).lastPolls = s.lastPolls := rfl
@[simp] theorem setArmed_timeoutCount (a : Bool) : (setArmed a s).timeoutCount = s.timeoutCount := rfl
@[simp] theorem setArmed_xferCount (a : Bool) : (setArmed a s).xferCount = s.xferCount := rfl
@[simp] theorem setArmed_faults (a : Bool) : (setArmed a s).faults = s.faults := rfl
@[simp] theorem setArmed_faultWord (a : Bool) : (setArmed a s).faultWord = s.faultWord := rfl
@[simp] theorem setArmed_stCount (a : Bool) : (setArmed a s).stCount = s.stCount := rfl
@[simp] theorem setArmed_stMean (a : Bool) : (setArmed a s).stMean = s.stMean := rfl
@[simp] theorem setArmed_stM2 (a : Bool) : (setArmed a s).stM2 = s.stM2 := rfl
@[simp] theorem setArmed_stMin (a : Bool) : (setArmed a s).stMin = s.stMin := rfl
@[simp] theorem setArmed_stMax (a : Bool) : (setArmed a s).stMax = s.stMax := rfl
@[simp] theorem setArmed_finCount (a : Bool) : (setArmed a s).finCount = s.finCount := rfl
@[simp] theorem setArmed_finMean (a : Bool) : (setArmed a s).finMean = s.finMean := rfl
@[simp] theorem setArmed_finVar (a : Bool) : (setArmed a s).finVar = s.finVar := rfl
@[simp] theorem setArmed_finStdev (a : Bool) : (setArmed a s).finStdev = s.finStdev := rfl
@[simp] theorem setArmed_finMin (a : Bool) : (setArmed a s).finMin = s.finMin := rfl
@[simp] theorem setArmed_finMax (a : Bool) : (setArmed a s).finMax = s.finMax := rfl
@[simp] theorem setArmed_finP2P (a : Bool) : (setArmed a s).finP2P = s.finP2P := rfl
@[simp] theorem setArmed_finNonEmpty (a : Bool) : (setArmed a s).finNonEmpty = s.finNonEmpty := rfl
@[simp] theorem setArmed_finVarValid (a : Bool) : (setArmed a s).finVarValid = s.finVarValid := rfl
@[simp] theorem setArmed_csN (a : Bool) : (setArmed a s).csN = s.csN := rfl
@[simp] theorem setArmed_resetN (a : Bool) : (setArmed a s).resetN = s.resetN := rfl
@[simp] theorem setArmed_trace (a : Bool) : (setArmed a s).trace = s.trace := rfl
@[simp] theorem setArmed_params (a : Bool) : (setArmed a s).params = s.params := rfl
@[simp] theorem setArmed_program (a : Bool) : (setArmed a s).program = s.program := rfl
@[simp] theorem setArmed_resp (a : Bool) : (setArmed a s).resp = s.resp := rfl
@[simp] theorem setArmed_readData (a : Bool) : (setArmed a s).readData = s.readData := rfl
@[simp] theorem setArmed_misoIn (a : Bool) : (setArmed a s).misoIn = s.misoIn := rfl
@[simp] theorem setArmed_drdyIn (a : Bool) : (setArmed a s).drdyIn = s.drdyIn := rfl
@[simp] theorem setArmed_misoDraws (a : Bool) : (setArmed a s).misoDraws = s.misoDraws := rfl
@[simp] theorem setArmed_drdyDraws (a : Bool) : (setArmed a s).drdyDraws = s.drdyDraws := rfl

/-! ### setPending -/

@[simp] theorem setPending_pstate (p : Bool) : (setPending p s).pstate = s.pstate := rfl
@[simp] theorem setPending_syncPending (p : Bool) : (setPending p s).syncPending = p := rfl
@[simp] theorem setPending_syncArmed (p : Bool) : (setPending p s).syncArmed = s.syncArmed := rfl
@[simp] theorem setPending_cfgGain (p : Bool) : (setPending p s).cfgGain = s.cfgGain := rfl
@[simp] theorem setPending_cfgRate (p : Bool) : (setPending p s).cfgRate = s.cfgRate := rfl
@[simp] theorem setPending_cfgChan (p : Bool) : (setPending p s).cfgChan = s.cfgChan := rfl
@[simp] theorem setPending_lastByte (p : Bool) : (setPending p s).lastByte = s.lastByte := rfl
@[simp] theorem setPending_lastSample (p : Bool) : (setPending p s).lastSample = s.lastSample := rfl
@[simp] theorem setPending_lastWaitTimeout (p : Bool) : (setPending p s).lastWaitTimeout = s.lastWaitTimeout := rfl
@[simp] theorem setPending_lastPolls (p : Bool) : (setPending p s).lastPolls = s.lastPolls := rfl
@[simp] theorem setPending_timeoutCount (p : Bool) : (setPending p s).timeoutCount = s.timeoutCount := rfl
@[simp] theorem setPending_xferCount (p : Bool) : (setPending p s).xferCount = s.xferCount := rfl
@[simp] theorem setPending_faults (p : Bool) : (setPending p s).faults = s.faults := rfl
@[simp] theorem setPending_faultWord (p : Bool) : (setPending p s).faultWord = s.faultWord := rfl
@[simp] theorem setPending_stCount (p : Bool) : (setPending p s).stCount = s.stCount := rfl
@[simp] theorem setPending_stMean (p : Bool) : (setPending p s).stMean = s.stMean := rfl
@[simp] theorem setPending_stM2 (p : Bool) : (setPending p s).stM2 = s.stM2 := rfl
@[simp] theorem setPending_stMin (p : Bool) : (setPending p s).stMin = s.stMin := rfl
@[simp] theorem setPending_stMax (p : Bool) : (setPending p s).stMax = s.stMax := rfl
@[simp] theorem setPending_finCount (p : Bool) : (setPending p s).finCount = s.finCount := rfl
@[simp] theorem setPending_finMean (p : Bool) : (setPending p s).finMean = s.finMean := rfl
@[simp] theorem setPending_finVar (p : Bool) : (setPending p s).finVar = s.finVar := rfl
@[simp] theorem setPending_finStdev (p : Bool) : (setPending p s).finStdev = s.finStdev := rfl
@[simp] theorem setPending_finMin (p : Bool) : (setPending p s).finMin = s.finMin := rfl
@[simp] theorem setPending_finMax (p : Bool) : (setPending p s).finMax = s.finMax := rfl
@[simp] theorem setPending_finP2P (p : Bool) : (setPending p s).finP2P = s.finP2P := rfl
@[simp] theorem setPending_finNonEmpty (p : Bool) : (setPending p s).finNonEmpty = s.finNonEmpty := rfl
@[simp] theorem setPending_finVarValid (p : Bool) : (setPending p s).finVarValid = s.finVarValid := rfl
@[simp] theorem setPending_csN (p : Bool) : (setPending p s).csN = s.csN := rfl
@[simp] theorem setPending_resetN (p : Bool) : (setPending p s).resetN = s.resetN := rfl
@[simp] theorem setPending_trace (p : Bool) : (setPending p s).trace = s.trace := rfl
@[simp] theorem setPending_params (p : Bool) : (setPending p s).params = s.params := rfl
@[simp] theorem setPending_program (p : Bool) : (setPending p s).program = s.program := rfl
@[simp] theorem setPending_resp (p : Bool) : (setPending p s).resp = s.resp := rfl
@[simp] theorem setPending_readData (p : Bool) : (setPending p s).readData = s.readData := rfl
@[simp] theorem setPending_misoIn (p : Bool) : (setPending p s).misoIn = s.misoIn := rfl
@[simp] theorem setPending_drdyIn (p : Bool) : (setPending p s).drdyIn = s.drdyIn := rfl
@[simp] theorem setPending_misoDraws (p : Bool) : (setPending p s).misoDraws = s.misoDraws := rfl
@[simp] theorem setPending_drdyDraws (p : Bool) : (setPending p s).drdyDraws = s.drdyDraws := rfl

/-! ### setPState -/

@[simp] theorem setPState_pstate (p : PState) : (setPState p s).pstate = p := rfl
@[simp] theorem setPState_syncPending (p : PState) : (setPState p s).syncPending = s.syncPending := rfl
@[simp] theorem setPState_syncArmed (p : PState) : (setPState p s).syncArmed = s.syncArmed := rfl
@[simp] theorem setPState_cfgGain (p : PState) : (setPState p s).cfgGain = s.cfgGain := rfl
@[simp] theorem setPState_cfgRate (p : PState) : (setPState p s).cfgRate = s.cfgRate := rfl
@[simp] theorem setPState_cfgChan (p : PState) : (setPState p s).cfgChan = s.cfgChan := rfl
@[simp] theorem setPState_lastByte (p : PState) : (setPState p s).lastByte = s.lastByte := rfl
@[simp] theorem setPState_lastSample (p : PState) : (setPState p s).lastSample = s.lastSample := rfl
@[simp] theorem setPState_lastWaitTimeout (p : PState) : (setPState p s).lastWaitTimeout = s.lastWaitTimeout := rfl
@[simp] theorem setPState_lastPolls (p : PState) : (setPState p s).lastPolls = s.lastPolls := rfl
@[simp] theorem setPState_timeoutCount (p : PState) : (setPState p s).timeoutCount = s.timeoutCount := rfl
@[simp] theorem setPState_xferCount (p : PState) : (setPState p s).xferCount = s.xferCount := rfl
@[simp] theorem setPState_faults (p : PState) : (setPState p s).faults = s.faults := rfl
@[simp] theorem setPState_faultWord (p : PState) : (setPState p s).faultWord = s.faultWord := rfl
@[simp] theorem setPState_stCount (p : PState) : (setPState p s).stCount = s.stCount := rfl
@[simp] theorem setPState_stMean (p : PState) : (setPState p s).stMean = s.stMean := rfl
@[simp] theorem setPState_stM2 (p : PState) : (setPState p s).stM2 = s.stM2 := rfl
@[simp] theorem setPState_stMin (p : PState) : (setPState p s).stMin = s.stMin := rfl
@[simp] theorem setPState_stMax (p : PState) : (setPState p s).stMax = s.stMax := rfl
@[simp] theorem setPState_finCount (p : PState) : (setPState p s).finCount = s.finCount := rfl
@[simp] theorem setPState_finMean (p : PState) : (setPState p s).finMean = s.finMean := rfl
@[simp] theorem setPState_finVar (p : PState) : (setPState p s).finVar = s.finVar := rfl
@[simp] theorem setPState_finStdev (p : PState) : (setPState p s).finStdev = s.finStdev := rfl
@[simp] theorem setPState_finMin (p : PState) : (setPState p s).finMin = s.finMin := rfl
@[simp] theorem setPState_finMax (p : PState) : (setPState p s).finMax = s.finMax := rfl
@[simp] theorem setPState_finP2P (p : PState) : (setPState p s).finP2P = s.finP2P := rfl
@[simp] theorem setPState_finNonEmpty (p : PState) : (setPState p s).finNonEmpty = s.finNonEmpty := rfl
@[simp] theorem setPState_finVarValid (p : PState) : (setPState p s).finVarValid = s.finVarValid := rfl
@[simp] theorem setPState_csN (p : PState) : (setPState p s).csN = s.csN := rfl
@[simp] theorem setPState_resetN (p : PState) : (setPState p s).resetN = s.resetN := rfl
@[simp] theorem setPState_trace (p : PState) : (setPState p s).trace = s.trace := rfl
@[simp] theorem setPState_params (p : PState) : (setPState p s).params = s.params := rfl
@[simp] theorem setPState_program (p : PState) : (setPState p s).program = s.program := rfl
@[simp] theorem setPState_resp (p : PState) : (setPState p s).resp = s.resp := rfl
@[simp] theorem setPState_readData (p : PState) : (setPState p s).readData = s.readData := rfl
@[simp] theorem setPState_misoIn (p : PState) : (setPState p s).misoIn = s.misoIn := rfl
@[simp] theorem setPState_drdyIn (p : PState) : (setPState p s).drdyIn = s.drdyIn := rfl
@[simp] theorem setPState_misoDraws (p : PState) : (setPState p s).misoDraws = s.misoDraws := rfl
@[simp] theorem setPState_drdyDraws (p : PState) : (setPState p s).drdyDraws = s.drdyDraws := rfl

/-! ### setLastByte -/

@[simp] theorem setLastByte_pstate (b : Byte) : (setLastByte b s).pstate = s.pstate := rfl
@[simp] theorem setLastByte_syncPending (b : Byte) : (setLastByte b s).syncPending = s.syncPending := rfl
@[simp] theorem setLastByte_syncArmed (b : Byte) : (setLastByte b s).syncArmed = s.syncArmed := rfl
@[simp] theorem setLastByte_cfgGain (b : Byte) : (setLastByte b s).cfgGain = s.cfgGain := rfl
@[simp] theorem setLastByte_cfgRate (b : Byte) : (setLastByte b s).cfgRate = s.cfgRate := rfl
@[simp] theorem setLastByte_cfgChan (b : Byte) : (setLastByte b s).cfgChan = s.cfgChan := rfl
@[simp] theorem setLastByte_lastByte (b : Byte) : (setLastByte b s).lastByte = b := rfl
@[simp] theorem setLastByte_lastSample (b : Byte) : (setLastByte b s).lastSample = s.lastSample := rfl
@[simp] theorem setLastByte_lastWaitTimeout (b : Byte) : (setLastByte b s).lastWaitTimeout = s.lastWaitTimeout := rfl
@[simp] theorem setLastByte_lastPolls (b : Byte) : (setLastByte b s).lastPolls = s.lastPolls := rfl
@[simp] theorem setLastByte_timeoutCount (b : Byte) : (setLastByte b s).timeoutCount = s.timeoutCount := rfl
@[simp] theorem setLastByte_xferCount (b : Byte) : (setLastByte b s).xferCount = s.xferCount := rfl
@[simp] theorem setLastByte_faults (b : Byte) : (setLastByte b s).faults = s.faults := rfl
@[simp] theorem setLastByte_faultWord (b : Byte) : (setLastByte b s).faultWord = s.faultWord := rfl
@[simp] theorem setLastByte_stCount (b : Byte) : (setLastByte b s).stCount = s.stCount := rfl
@[simp] theorem setLastByte_stMean (b : Byte) : (setLastByte b s).stMean = s.stMean := rfl
@[simp] theorem setLastByte_stM2 (b : Byte) : (setLastByte b s).stM2 = s.stM2 := rfl
@[simp] theorem setLastByte_stMin (b : Byte) : (setLastByte b s).stMin = s.stMin := rfl
@[simp] theorem setLastByte_stMax (b : Byte) : (setLastByte b s).stMax = s.stMax := rfl
@[simp] theorem setLastByte_finCount (b : Byte) : (setLastByte b s).finCount = s.finCount := rfl
@[simp] theorem setLastByte_finMean (b : Byte) : (setLastByte b s).finMean = s.finMean := rfl
@[simp] theorem setLastByte_finVar (b : Byte) : (setLastByte b s).finVar = s.finVar := rfl
@[simp] theorem setLastByte_finStdev (b : Byte) : (setLastByte b s).finStdev = s.finStdev := rfl
@[simp] theorem setLastByte_finMin (b : Byte) : (setLastByte b s).finMin = s.finMin := rfl
@[simp] theorem setLastByte_finMax (b : Byte) : (setLastByte b s).finMax = s.finMax := rfl
@[simp] theorem setLastByte_finP2P (b : Byte) : (setLastByte b s).finP2P = s.finP2P := rfl
@[simp] theorem setLastByte_finNonEmpty (b : Byte) : (setLastByte b s).finNonEmpty = s.finNonEmpty := rfl
@[simp] theorem setLastByte_finVarValid (b : Byte) : (setLastByte b s).finVarValid = s.finVarValid := rfl
@[simp] theorem setLastByte_csN (b : Byte) : (setLastByte b s).csN = s.csN := rfl
@[simp] theorem setLastByte_resetN (b : Byte) : (setLastByte b s).resetN = s.resetN := rfl
@[simp] theorem setLastByte_trace (b : Byte) : (setLastByte b s).trace = s.trace := rfl
@[simp] theorem setLastByte_params (b : Byte) : (setLastByte b s).params = s.params := rfl
@[simp] theorem setLastByte_program (b : Byte) : (setLastByte b s).program = s.program := rfl
@[simp] theorem setLastByte_resp (b : Byte) : (setLastByte b s).resp = s.resp := rfl
@[simp] theorem setLastByte_readData (b : Byte) : (setLastByte b s).readData = s.readData := rfl
@[simp] theorem setLastByte_misoIn (b : Byte) : (setLastByte b s).misoIn = s.misoIn := rfl
@[simp] theorem setLastByte_drdyIn (b : Byte) : (setLastByte b s).drdyIn = s.drdyIn := rfl
@[simp] theorem setLastByte_misoDraws (b : Byte) : (setLastByte b s).misoDraws = s.misoDraws := rfl
@[simp] theorem setLastByte_drdyDraws (b : Byte) : (setLastByte b s).drdyDraws = s.drdyDraws := rfl

/-! ### setShadows -/

@[simp] theorem setShadows_pstate (g : BitVec 3) (r : BitVec 4) (c : BitVec 3) : (setShadows g r c s).pstate = s.pstate := rfl
@[simp] theorem setShadows_syncPending (g : BitVec 3) (r : BitVec 4) (c : BitVec 3) : (setShadows g r c s).syncPending = s.syncPending := rfl
@[simp] theorem setShadows_syncArmed (g : BitVec 3) (r : BitVec 4) (c : BitVec 3) : (setShadows g r c s).syncArmed = s.syncArmed := rfl
@[simp] theorem setShadows_cfgGain (g : BitVec 3) (r : BitVec 4) (c : BitVec 3) : (setShadows g r c s).cfgGain = g := rfl
@[simp] theorem setShadows_cfgRate (g : BitVec 3) (r : BitVec 4) (c : BitVec 3) : (setShadows g r c s).cfgRate = r := rfl
@[simp] theorem setShadows_cfgChan (g : BitVec 3) (r : BitVec 4) (c : BitVec 3) : (setShadows g r c s).cfgChan = c := rfl
@[simp] theorem setShadows_lastByte (g : BitVec 3) (r : BitVec 4) (c : BitVec 3) : (setShadows g r c s).lastByte = s.lastByte := rfl
@[simp] theorem setShadows_lastSample (g : BitVec 3) (r : BitVec 4) (c : BitVec 3) : (setShadows g r c s).lastSample = s.lastSample := rfl
@[simp] theorem setShadows_lastWaitTimeout (g : BitVec 3) (r : BitVec 4) (c : BitVec 3) : (setShadows g r c s).lastWaitTimeout = s.lastWaitTimeout := rfl
@[simp] theorem setShadows_lastPolls (g : BitVec 3) (r : BitVec 4) (c : BitVec 3) : (setShadows g r c s).lastPolls = s.lastPolls := rfl
@[simp] theorem setShadows_timeoutCount (g : BitVec 3) (r : BitVec 4) (c : BitVec 3) : (setShadows g r c s).timeoutCount = s.timeoutCount := rfl
@[simp] theorem setShadows_xferCount (g : BitVec 3) (r : BitVec 4) (c : BitVec 3) : (setShadows g r c s).xferCount = s.xferCount := rfl
@[simp] theorem setShadows_faults (g : BitVec 3) (r : BitVec 4) (c : BitVec 3) : (setShadows g r c s).faults = s.faults := rfl
@[simp] theorem setShadows_faultWord (g : BitVec 3) (r : BitVec 4) (c : BitVec 3) : (setShadows g r c s).faultWord = s.faultWord := rfl
@[simp] theorem setShadows_stCount (g : BitVec 3) (r : BitVec 4) (c : BitVec 3) : (setShadows g r c s).stCount = s.stCount := rfl
@[simp] theorem setShadows_stMean (g : BitVec 3) (r : BitVec 4) (c : BitVec 3) : (setShadows g r c s).stMean = s.stMean := rfl
@[simp] theorem setShadows_stM2 (g : BitVec 3) (r : BitVec 4) (c : BitVec 3) : (setShadows g r c s).stM2 = s.stM2 := rfl
@[simp] theorem setShadows_stMin (g : BitVec 3) (r : BitVec 4) (c : BitVec 3) : (setShadows g r c s).stMin = s.stMin := rfl
@[simp] theorem setShadows_stMax (g : BitVec 3) (r : BitVec 4) (c : BitVec 3) : (setShadows g r c s).stMax = s.stMax := rfl
@[simp] theorem setShadows_finCount (g : BitVec 3) (r : BitVec 4) (c : BitVec 3) : (setShadows g r c s).finCount = s.finCount := rfl
@[simp] theorem setShadows_finMean (g : BitVec 3) (r : BitVec 4) (c : BitVec 3) : (setShadows g r c s).finMean = s.finMean := rfl
@[simp] theorem setShadows_finVar (g : BitVec 3) (r : BitVec 4) (c : BitVec 3) : (setShadows g r c s).finVar = s.finVar := rfl
@[simp] theorem setShadows_finStdev (g : BitVec 3) (r : BitVec 4) (c : BitVec 3) : (setShadows g r c s).finStdev = s.finStdev := rfl
@[simp] theorem setShadows_finMin (g : BitVec 3) (r : BitVec 4) (c : BitVec 3) : (setShadows g r c s).finMin = s.finMin := rfl
@[simp] theorem setShadows_finMax (g : BitVec 3) (r : BitVec 4) (c : BitVec 3) : (setShadows g r c s).finMax = s.finMax := rfl
@[simp] theorem setShadows_finP2P (g : BitVec 3) (r : BitVec 4) (c : BitVec 3) : (setShadows g r c s).finP2P = s.finP2P := rfl
@[simp] theorem setShadows_finNonEmpty (g : BitVec 3) (r : BitVec 4) (c : BitVec 3) : (setShadows g r c s).finNonEmpty = s.finNonEmpty := rfl
@[simp] theorem setShadows_finVarValid (g : BitVec 3) (r : BitVec 4) (c : BitVec 3) : (setShadows g r c s).finVarValid = s.finVarValid := rfl
@[simp] theorem setShadows_csN (g : BitVec 3) (r : BitVec 4) (c : BitVec 3) : (setShadows g r c s).csN = s.csN := rfl
@[simp] theorem setShadows_resetN (g : BitVec 3) (r : BitVec 4) (c : BitVec 3) : (setShadows g r c s).resetN = s.resetN := rfl
@[simp] theorem setShadows_trace (g : BitVec 3) (r : BitVec 4) (c : BitVec 3) : (setShadows g r c s).trace = s.trace := rfl
@[simp] theorem setShadows_params (g : BitVec 3) (r : BitVec 4) (c : BitVec 3) : (setShadows g r c s).params = s.params := rfl
@[simp] theorem setShadows_program (g : BitVec 3) (r : BitVec 4) (c : BitVec 3) : (setShadows g r c s).program = s.program := rfl
@[simp] theorem setShadows_resp (g : BitVec 3) (r : BitVec 4) (c : BitVec 3) : (setShadows g r c s).resp = s.resp := rfl
@[simp] theorem setShadows_readData (g : BitVec 3) (r : BitVec 4) (c : BitVec 3) : (setShadows g r c s).readData = s.readData := rfl
@[simp] theorem setShadows_misoIn (g : BitVec 3) (r : BitVec 4) (c : BitVec 3) : (setShadows g r c s).misoIn = s.misoIn := rfl
@[simp] theorem setShadows_drdyIn (g : BitVec 3) (r : BitVec 4) (c : BitVec 3) : (setShadows g r c s).drdyIn = s.drdyIn := rfl
@[simp] theorem setShadows_misoDraws (g : BitVec 3) (r : BitVec 4) (c : BitVec 3) : (setShadows g r c s).misoDraws = s.misoDraws := rfl
@[simp] theorem setShadows_drdyDraws (g : BitVec 3) (r : BitVec 4) (c : BitVec 3) : (setShadows g r c s).drdyDraws = s.drdyDraws := rfl

/-! ### setLastSample -/

@[simp] theorem setLastSample_pstate (x : Word) : (setLastSample x s).pstate = s.pstate := rfl
@[simp] theorem setLastSample_syncPending (x : Word) : (setLastSample x s).syncPending = s.syncPending := rfl
@[simp] theorem setLastSample_syncArmed (x : Word) : (setLastSample x s).syncArmed = s.syncArmed := rfl
@[simp] theorem setLastSample_cfgGain (x : Word) : (setLastSample x s).cfgGain = s.cfgGain := rfl
@[simp] theorem setLastSample_cfgRate (x : Word) : (setLastSample x s).cfgRate = s.cfgRate := rfl
@[simp] theorem setLastSample_cfgChan (x : Word) : (setLastSample x s).cfgChan = s.cfgChan := rfl
@[simp] theorem setLastSample_lastByte (x : Word) : (setLastSample x s).lastByte = s.lastByte := rfl
@[simp] theorem setLastSample_lastSample (x : Word) : (setLastSample x s).lastSample = x := rfl
@[simp] theorem setLastSample_lastWaitTimeout (x : Word) : (setLastSample x s).lastWaitTimeout = s.lastWaitTimeout := rfl
@[simp] theorem setLastSample_lastPolls (x : Word) : (setLastSample x s).lastPolls = s.lastPolls := rfl
@[simp] theorem setLastSample_timeoutCount (x : Word) : (setLastSample x s).timeoutCount = s.timeoutCount := rfl
@[simp] theorem setLastSample_xferCount (x : Word) : (setLastSample x s).xferCount = s.xferCount := rfl
@[simp] theorem setLastSample_faults (x : Word) : (setLastSample x s).faults = s.faults := rfl
@[simp] theorem setLastSample_faultWord (x : Word) : (setLastSample x s).faultWord = s.faultWord := rfl
@[simp] theorem setLastSample_stCount (x : Word) : (setLastSample x s).stCount = s.stCount := rfl
@[simp] theorem setLastSample_stMean (x : Word) : (setLastSample x s).stMean = s.stMean := rfl
@[simp] theorem setLastSample_stM2 (x : Word) : (setLastSample x s).stM2 = s.stM2 := rfl
@[simp] theorem setLastSample_stMin (x : Word) : (setLastSample x s).stMin = s.stMin := rfl
@[simp] theorem setLastSample_stMax (x : Word) : (setLastSample x s).stMax = s.stMax := rfl
@[simp] theorem setLastSample_finCount (x : Word) : (setLastSample x s).finCount = s.finCount := rfl
@[simp] theorem setLastSample_finMean (x : Word) : (setLastSample x s).finMean = s.finMean := rfl
@[simp] theorem setLastSample_finVar (x : Word) : (setLastSample x s).finVar = s.finVar := rfl
@[simp] theorem setLastSample_finStdev (x : Word) : (setLastSample x s).finStdev = s.finStdev := rfl
@[simp] theorem setLastSample_finMin (x : Word) : (setLastSample x s).finMin = s.finMin := rfl
@[simp] theorem setLastSample_finMax (x : Word) : (setLastSample x s).finMax = s.finMax := rfl
@[simp] theorem setLastSample_finP2P (x : Word) : (setLastSample x s).finP2P = s.finP2P := rfl
@[simp] theorem setLastSample_finNonEmpty (x : Word) : (setLastSample x s).finNonEmpty = s.finNonEmpty := rfl
@[simp] theorem setLastSample_finVarValid (x : Word) : (setLastSample x s).finVarValid = s.finVarValid := rfl
@[simp] theorem setLastSample_csN (x : Word) : (setLastSample x s).csN = s.csN := rfl
@[simp] theorem setLastSample_resetN (x : Word) : (setLastSample x s).resetN = s.resetN := rfl
@[simp] theorem setLastSample_trace (x : Word) : (setLastSample x s).trace = s.trace := rfl
@[simp] theorem setLastSample_params (x : Word) : (setLastSample x s).params = s.params := rfl
@[simp] theorem setLastSample_program (x : Word) : (setLastSample x s).program = s.program := rfl
@[simp] theorem setLastSample_resp (x : Word) : (setLastSample x s).resp = s.resp := rfl
@[simp] theorem setLastSample_readData (x : Word) : (setLastSample x s).readData = s.readData := rfl
@[simp] theorem setLastSample_misoIn (x : Word) : (setLastSample x s).misoIn = s.misoIn := rfl
@[simp] theorem setLastSample_drdyIn (x : Word) : (setLastSample x s).drdyIn = s.drdyIn := rfl
@[simp] theorem setLastSample_misoDraws (x : Word) : (setLastSample x s).misoDraws = s.misoDraws := rfl
@[simp] theorem setLastSample_drdyDraws (x : Word) : (setLastSample x s).drdyDraws = s.drdyDraws := rfl

/-! ### setWait -/

@[simp] theorem setWait_pstate (k : Word) (o : Bool) : (setWait k o s).pstate = s.pstate := rfl
@[simp] theorem setWait_syncPending (k : Word) (o : Bool) : (setWait k o s).syncPending = s.syncPending := rfl
@[simp] theorem setWait_syncArmed (k : Word) (o : Bool) : (setWait k o s).syncArmed = s.syncArmed := rfl
@[simp] theorem setWait_cfgGain (k : Word) (o : Bool) : (setWait k o s).cfgGain = s.cfgGain := rfl
@[simp] theorem setWait_cfgRate (k : Word) (o : Bool) : (setWait k o s).cfgRate = s.cfgRate := rfl
@[simp] theorem setWait_cfgChan (k : Word) (o : Bool) : (setWait k o s).cfgChan = s.cfgChan := rfl
@[simp] theorem setWait_lastByte (k : Word) (o : Bool) : (setWait k o s).lastByte = s.lastByte := rfl
@[simp] theorem setWait_lastSample (k : Word) (o : Bool) : (setWait k o s).lastSample = s.lastSample := rfl
@[simp] theorem setWait_lastWaitTimeout (k : Word) (o : Bool) : (setWait k o s).lastWaitTimeout = o := rfl
@[simp] theorem setWait_lastPolls (k : Word) (o : Bool) : (setWait k o s).lastPolls = k := rfl
@[simp] theorem setWait_timeoutCount (k : Word) (o : Bool) : (setWait k o s).timeoutCount = s.timeoutCount := rfl
@[simp] theorem setWait_xferCount (k : Word) (o : Bool) : (setWait k o s).xferCount = s.xferCount := rfl
@[simp] theorem setWait_faults (k : Word) (o : Bool) : (setWait k o s).faults = s.faults := rfl
@[simp] theorem setWait_faultWord (k : Word) (o : Bool) : (setWait k o s).faultWord = s.faultWord := rfl
@[simp] theorem setWait_stCount (k : Word) (o : Bool) : (setWait k o s).stCount = s.stCount := rfl
@[simp] theorem setWait_stMean (k : Word) (o : Bool) : (setWait k o s).stMean = s.stMean := rfl
@[simp] theorem setWait_stM2 (k : Word) (o : Bool) : (setWait k o s).stM2 = s.stM2 := rfl
@[simp] theorem setWait_stMin (k : Word) (o : Bool) : (setWait k o s).stMin = s.stMin := rfl
@[simp] theorem setWait_stMax (k : Word) (o : Bool) : (setWait k o s).stMax = s.stMax := rfl
@[simp] theorem setWait_finCount (k : Word) (o : Bool) : (setWait k o s).finCount = s.finCount := rfl
@[simp] theorem setWait_finMean (k : Word) (o : Bool) : (setWait k o s).finMean = s.finMean := rfl
@[simp] theorem setWait_finVar (k : Word) (o : Bool) : (setWait k o s).finVar = s.finVar := rfl
@[simp] theorem setWait_finStdev (k : Word) (o : Bool) : (setWait k o s).finStdev = s.finStdev := rfl
@[simp] theorem setWait_finMin (k : Word) (o : Bool) : (setWait k o s).finMin = s.finMin := rfl
@[simp] theorem setWait_finMax (k : Word) (o : Bool) : (setWait k o s).finMax = s.finMax := rfl
@[simp] theorem setWait_finP2P (k : Word) (o : Bool) : (setWait k o s).finP2P = s.finP2P := rfl
@[simp] theorem setWait_finNonEmpty (k : Word) (o : Bool) : (setWait k o s).finNonEmpty = s.finNonEmpty := rfl
@[simp] theorem setWait_finVarValid (k : Word) (o : Bool) : (setWait k o s).finVarValid = s.finVarValid := rfl
@[simp] theorem setWait_csN (k : Word) (o : Bool) : (setWait k o s).csN = s.csN := rfl
@[simp] theorem setWait_resetN (k : Word) (o : Bool) : (setWait k o s).resetN = s.resetN := rfl
@[simp] theorem setWait_trace (k : Word) (o : Bool) : (setWait k o s).trace = s.trace := rfl
@[simp] theorem setWait_params (k : Word) (o : Bool) : (setWait k o s).params = s.params := rfl
@[simp] theorem setWait_program (k : Word) (o : Bool) : (setWait k o s).program = s.program := rfl
@[simp] theorem setWait_resp (k : Word) (o : Bool) : (setWait k o s).resp = s.resp := rfl
@[simp] theorem setWait_readData (k : Word) (o : Bool) : (setWait k o s).readData = s.readData := rfl
@[simp] theorem setWait_misoIn (k : Word) (o : Bool) : (setWait k o s).misoIn = s.misoIn := rfl
@[simp] theorem setWait_drdyIn (k : Word) (o : Bool) : (setWait k o s).drdyIn = s.drdyIn := rfl
@[simp] theorem setWait_misoDraws (k : Word) (o : Bool) : (setWait k o s).misoDraws = s.misoDraws := rfl
@[simp] theorem setWait_drdyDraws (k : Word) (o : Bool) : (setWait k o s).drdyDraws = s.drdyDraws := rfl

/-! ### bumpTimeouts -/

@[simp] theorem bumpTimeouts_pstate : (bumpTimeouts s).pstate = s.pstate := rfl
@[simp] theorem bumpTimeouts_syncPending : (bumpTimeouts s).syncPending = s.syncPending := rfl
@[simp] theorem bumpTimeouts_syncArmed : (bumpTimeouts s).syncArmed = s.syncArmed := rfl
@[simp] theorem bumpTimeouts_cfgGain : (bumpTimeouts s).cfgGain = s.cfgGain := rfl
@[simp] theorem bumpTimeouts_cfgRate : (bumpTimeouts s).cfgRate = s.cfgRate := rfl
@[simp] theorem bumpTimeouts_cfgChan : (bumpTimeouts s).cfgChan = s.cfgChan := rfl
@[simp] theorem bumpTimeouts_lastByte : (bumpTimeouts s).lastByte = s.lastByte := rfl
@[simp] theorem bumpTimeouts_lastSample : (bumpTimeouts s).lastSample = s.lastSample := rfl
@[simp] theorem bumpTimeouts_lastWaitTimeout : (bumpTimeouts s).lastWaitTimeout = s.lastWaitTimeout := rfl
@[simp] theorem bumpTimeouts_lastPolls : (bumpTimeouts s).lastPolls = s.lastPolls := rfl
@[simp] theorem bumpTimeouts_timeoutCount : (bumpTimeouts s).timeoutCount = satInc s.timeoutCount := rfl
@[simp] theorem bumpTimeouts_xferCount : (bumpTimeouts s).xferCount = s.xferCount := rfl
@[simp] theorem bumpTimeouts_faults : (bumpTimeouts s).faults = s.faults := rfl
@[simp] theorem bumpTimeouts_faultWord : (bumpTimeouts s).faultWord = s.faultWord := rfl
@[simp] theorem bumpTimeouts_stCount : (bumpTimeouts s).stCount = s.stCount := rfl
@[simp] theorem bumpTimeouts_stMean : (bumpTimeouts s).stMean = s.stMean := rfl
@[simp] theorem bumpTimeouts_stM2 : (bumpTimeouts s).stM2 = s.stM2 := rfl
@[simp] theorem bumpTimeouts_stMin : (bumpTimeouts s).stMin = s.stMin := rfl
@[simp] theorem bumpTimeouts_stMax : (bumpTimeouts s).stMax = s.stMax := rfl
@[simp] theorem bumpTimeouts_finCount : (bumpTimeouts s).finCount = s.finCount := rfl
@[simp] theorem bumpTimeouts_finMean : (bumpTimeouts s).finMean = s.finMean := rfl
@[simp] theorem bumpTimeouts_finVar : (bumpTimeouts s).finVar = s.finVar := rfl
@[simp] theorem bumpTimeouts_finStdev : (bumpTimeouts s).finStdev = s.finStdev := rfl
@[simp] theorem bumpTimeouts_finMin : (bumpTimeouts s).finMin = s.finMin := rfl
@[simp] theorem bumpTimeouts_finMax : (bumpTimeouts s).finMax = s.finMax := rfl
@[simp] theorem bumpTimeouts_finP2P : (bumpTimeouts s).finP2P = s.finP2P := rfl
@[simp] theorem bumpTimeouts_finNonEmpty : (bumpTimeouts s).finNonEmpty = s.finNonEmpty := rfl
@[simp] theorem bumpTimeouts_finVarValid : (bumpTimeouts s).finVarValid = s.finVarValid := rfl
@[simp] theorem bumpTimeouts_csN : (bumpTimeouts s).csN = s.csN := rfl
@[simp] theorem bumpTimeouts_resetN : (bumpTimeouts s).resetN = s.resetN := rfl
@[simp] theorem bumpTimeouts_trace : (bumpTimeouts s).trace = s.trace := rfl
@[simp] theorem bumpTimeouts_params : (bumpTimeouts s).params = s.params := rfl
@[simp] theorem bumpTimeouts_program : (bumpTimeouts s).program = s.program := rfl
@[simp] theorem bumpTimeouts_resp : (bumpTimeouts s).resp = s.resp := rfl
@[simp] theorem bumpTimeouts_readData : (bumpTimeouts s).readData = s.readData := rfl
@[simp] theorem bumpTimeouts_misoIn : (bumpTimeouts s).misoIn = s.misoIn := rfl
@[simp] theorem bumpTimeouts_drdyIn : (bumpTimeouts s).drdyIn = s.drdyIn := rfl
@[simp] theorem bumpTimeouts_misoDraws : (bumpTimeouts s).misoDraws = s.misoDraws := rfl
@[simp] theorem bumpTimeouts_drdyDraws : (bumpTimeouts s).drdyDraws = s.drdyDraws := rfl

/-! ### clearStats -/

@[simp] theorem clearStats_pstate : (clearStats s).pstate = s.pstate := rfl
@[simp] theorem clearStats_syncPending : (clearStats s).syncPending = s.syncPending := rfl
@[simp] theorem clearStats_syncArmed : (clearStats s).syncArmed = s.syncArmed := rfl
@[simp] theorem clearStats_cfgGain : (clearStats s).cfgGain = s.cfgGain := rfl
@[simp] theorem clearStats_cfgRate : (clearStats s).cfgRate = s.cfgRate := rfl
@[simp] theorem clearStats_cfgChan : (clearStats s).cfgChan = s.cfgChan := rfl
@[simp] theorem clearStats_lastByte : (clearStats s).lastByte = s.lastByte := rfl
@[simp] theorem clearStats_lastSample : (clearStats s).lastSample = s.lastSample := rfl
@[simp] theorem clearStats_lastWaitTimeout : (clearStats s).lastWaitTimeout = s.lastWaitTimeout := rfl
@[simp] theorem clearStats_lastPolls : (clearStats s).lastPolls = s.lastPolls := rfl
@[simp] theorem clearStats_timeoutCount : (clearStats s).timeoutCount = s.timeoutCount := rfl
@[simp] theorem clearStats_xferCount : (clearStats s).xferCount = s.xferCount := rfl
@[simp] theorem clearStats_faults : (clearStats s).faults = s.faults := rfl
@[simp] theorem clearStats_faultWord : (clearStats s).faultWord = s.faultWord := rfl
@[simp] theorem clearStats_stCount : (clearStats s).stCount = 0#32 := rfl
@[simp] theorem clearStats_stMean : (clearStats s).stMean = f64Zero := rfl
@[simp] theorem clearStats_stM2 : (clearStats s).stM2 = f64Zero := rfl
@[simp] theorem clearStats_stMin : (clearStats s).stMin = 0#32 := rfl
@[simp] theorem clearStats_stMax : (clearStats s).stMax = 0#32 := rfl
@[simp] theorem clearStats_finCount : (clearStats s).finCount = s.finCount := rfl
@[simp] theorem clearStats_finMean : (clearStats s).finMean = s.finMean := rfl
@[simp] theorem clearStats_finVar : (clearStats s).finVar = s.finVar := rfl
@[simp] theorem clearStats_finStdev : (clearStats s).finStdev = s.finStdev := rfl
@[simp] theorem clearStats_finMin : (clearStats s).finMin = s.finMin := rfl
@[simp] theorem clearStats_finMax : (clearStats s).finMax = s.finMax := rfl
@[simp] theorem clearStats_finP2P : (clearStats s).finP2P = s.finP2P := rfl
@[simp] theorem clearStats_finNonEmpty : (clearStats s).finNonEmpty = s.finNonEmpty := rfl
@[simp] theorem clearStats_finVarValid : (clearStats s).finVarValid = s.finVarValid := rfl
@[simp] theorem clearStats_csN : (clearStats s).csN = s.csN := rfl
@[simp] theorem clearStats_resetN : (clearStats s).resetN = s.resetN := rfl
@[simp] theorem clearStats_trace : (clearStats s).trace = s.trace := rfl
@[simp] theorem clearStats_params : (clearStats s).params = s.params := rfl
@[simp] theorem clearStats_program : (clearStats s).program = s.program := rfl
@[simp] theorem clearStats_resp : (clearStats s).resp = s.resp := rfl
@[simp] theorem clearStats_readData : (clearStats s).readData = s.readData := rfl
@[simp] theorem clearStats_misoIn : (clearStats s).misoIn = s.misoIn := rfl
@[simp] theorem clearStats_drdyIn : (clearStats s).drdyIn = s.drdyIn := rfl
@[simp] theorem clearStats_misoDraws : (clearStats s).misoDraws = s.misoDraws := rfl
@[simp] theorem clearStats_drdyDraws : (clearStats s).drdyDraws = s.drdyDraws := rfl

/-! ### accumulate -/

@[simp] theorem accumulate_pstate (x : Word) : (accumulate x s).pstate = s.pstate := rfl
@[simp] theorem accumulate_syncPending (x : Word) : (accumulate x s).syncPending = s.syncPending := rfl
@[simp] theorem accumulate_syncArmed (x : Word) : (accumulate x s).syncArmed = s.syncArmed := rfl
@[simp] theorem accumulate_cfgGain (x : Word) : (accumulate x s).cfgGain = s.cfgGain := rfl
@[simp] theorem accumulate_cfgRate (x : Word) : (accumulate x s).cfgRate = s.cfgRate := rfl
@[simp] theorem accumulate_cfgChan (x : Word) : (accumulate x s).cfgChan = s.cfgChan := rfl
@[simp] theorem accumulate_lastByte (x : Word) : (accumulate x s).lastByte = s.lastByte := rfl
@[simp] theorem accumulate_lastSample (x : Word) : (accumulate x s).lastSample = s.lastSample := rfl
@[simp] theorem accumulate_lastWaitTimeout (x : Word) : (accumulate x s).lastWaitTimeout = s.lastWaitTimeout := rfl
@[simp] theorem accumulate_lastPolls (x : Word) : (accumulate x s).lastPolls = s.lastPolls := rfl
@[simp] theorem accumulate_timeoutCount (x : Word) : (accumulate x s).timeoutCount = s.timeoutCount := rfl
@[simp] theorem accumulate_xferCount (x : Word) : (accumulate x s).xferCount = s.xferCount := rfl
@[simp] theorem accumulate_faults (x : Word) : (accumulate x s).faults = s.faults := rfl
@[simp] theorem accumulate_faultWord (x : Word) : (accumulate x s).faultWord = s.faultWord := rfl
@[simp] theorem accumulate_stCount (x : Word) : (accumulate x s).stCount = s.stCount + 1#32 := rfl
@[simp] theorem accumulate_stMin (x : Word) : (accumulate x s).stMin = (if s.stCount = 0#32 then x else if x.slt s.stMin then x else s.stMin) := rfl
@[simp] theorem accumulate_stMax (x : Word) : (accumulate x s).stMax = (if s.stCount = 0#32 then x else if s.stMax.slt x then x else s.stMax) := rfl
@[simp] theorem accumulate_finCount (x : Word) : (accumulate x s).finCount = s.finCount := rfl
@[simp] theorem accumulate_finMean (x : Word) : (accumulate x s).finMean = s.finMean := rfl
@[simp] theorem accumulate_finVar (x : Word) : (accumulate x s).finVar = s.finVar := rfl
@[simp] theorem accumulate_finStdev (x : Word) : (accumulate x s).finStdev = s.finStdev := rfl
@[simp] theorem accumulate_finMin (x : Word) : (accumulate x s).finMin = s.finMin := rfl
@[simp] theorem accumulate_finMax (x : Word) : (accumulate x s).finMax = s.finMax := rfl
@[simp] theorem accumulate_finP2P (x : Word) : (accumulate x s).finP2P = s.finP2P := rfl
@[simp] theorem accumulate_finNonEmpty (x : Word) : (accumulate x s).finNonEmpty = s.finNonEmpty := rfl
@[simp] theorem accumulate_finVarValid (x : Word) : (accumulate x s).finVarValid = s.finVarValid := rfl
@[simp] theorem accumulate_csN (x : Word) : (accumulate x s).csN = s.csN := rfl
@[simp] theorem accumulate_resetN (x : Word) : (accumulate x s).resetN = s.resetN := rfl
@[simp] theorem accumulate_trace (x : Word) : (accumulate x s).trace = s.trace := rfl
@[simp] theorem accumulate_params (x : Word) : (accumulate x s).params = s.params := rfl
@[simp] theorem accumulate_program (x : Word) : (accumulate x s).program = s.program := rfl
@[simp] theorem accumulate_resp (x : Word) : (accumulate x s).resp = s.resp := rfl
@[simp] theorem accumulate_readData (x : Word) : (accumulate x s).readData = s.readData := rfl
@[simp] theorem accumulate_misoIn (x : Word) : (accumulate x s).misoIn = s.misoIn := rfl
@[simp] theorem accumulate_drdyIn (x : Word) : (accumulate x s).drdyIn = s.drdyIn := rfl
@[simp] theorem accumulate_misoDraws (x : Word) : (accumulate x s).misoDraws = s.misoDraws := rfl
@[simp] theorem accumulate_drdyDraws (x : Word) : (accumulate x s).drdyDraws = s.drdyDraws := rfl

/-! ### finalize -/

@[simp] theorem finalize_pstate : (finalize s).pstate = s.pstate := rfl
@[simp] theorem finalize_syncPending : (finalize s).syncPending = s.syncPending := rfl
@[simp] theorem finalize_syncArmed : (finalize s).syncArmed = s.syncArmed := rfl
@[simp] theorem finalize_cfgGain : (finalize s).cfgGain = s.cfgGain := rfl
@[simp] theorem finalize_cfgRate : (finalize s).cfgRate = s.cfgRate := rfl
@[simp] theorem finalize_cfgChan : (finalize s).cfgChan = s.cfgChan := rfl
@[simp] theorem finalize_lastByte : (finalize s).lastByte = s.lastByte := rfl
@[simp] theorem finalize_lastSample : (finalize s).lastSample = s.lastSample := rfl
@[simp] theorem finalize_lastWaitTimeout : (finalize s).lastWaitTimeout = s.lastWaitTimeout := rfl
@[simp] theorem finalize_lastPolls : (finalize s).lastPolls = s.lastPolls := rfl
@[simp] theorem finalize_timeoutCount : (finalize s).timeoutCount = s.timeoutCount := rfl
@[simp] theorem finalize_xferCount : (finalize s).xferCount = s.xferCount := rfl
@[simp] theorem finalize_faults : (finalize s).faults = s.faults := rfl
@[simp] theorem finalize_faultWord : (finalize s).faultWord = s.faultWord := rfl
@[simp] theorem finalize_stCount : (finalize s).stCount = s.stCount := rfl
@[simp] theorem finalize_stMean : (finalize s).stMean = s.stMean := rfl
@[simp] theorem finalize_stM2 : (finalize s).stM2 = s.stM2 := rfl
@[simp] theorem finalize_stMin : (finalize s).stMin = s.stMin := rfl
@[simp] theorem finalize_stMax : (finalize s).stMax = s.stMax := rfl
@[simp] theorem finalize_finCount : (finalize s).finCount = s.stCount := rfl
@[simp] theorem finalize_finMean : (finalize s).finMean = s.stMean := rfl
@[simp] theorem finalize_finVar : (finalize s).finVar = sampleVariance s.stCount s.stM2 := rfl
@[simp] theorem finalize_finMin : (finalize s).finMin = s.stMin := rfl
@[simp] theorem finalize_finMax : (finalize s).finMax = s.stMax := rfl
@[simp] theorem finalize_finP2P : (finalize s).finP2P = s.stMax - s.stMin := rfl
@[simp] theorem finalize_finNonEmpty : (finalize s).finNonEmpty = decide (1 ≤ s.stCount.toNat) := rfl
@[simp] theorem finalize_finVarValid : (finalize s).finVarValid = decide (2 ≤ s.stCount.toNat) := rfl
@[simp] theorem finalize_csN : (finalize s).csN = s.csN := rfl
@[simp] theorem finalize_resetN : (finalize s).resetN = s.resetN := rfl
@[simp] theorem finalize_trace : (finalize s).trace = s.trace := rfl
@[simp] theorem finalize_params : (finalize s).params = s.params := rfl
@[simp] theorem finalize_program : (finalize s).program = s.program := rfl
@[simp] theorem finalize_resp : (finalize s).resp = s.resp := rfl
@[simp] theorem finalize_readData : (finalize s).readData = s.readData := rfl
@[simp] theorem finalize_misoIn : (finalize s).misoIn = s.misoIn := rfl
@[simp] theorem finalize_drdyIn : (finalize s).drdyIn = s.drdyIn := rfl
@[simp] theorem finalize_misoDraws : (finalize s).misoDraws = s.misoDraws := rfl
@[simp] theorem finalize_drdyDraws : (finalize s).drdyDraws = s.drdyDraws := rfl

/-! ### hostRead -/

@[simp] theorem hostRead_pstate (i : BitVec 5) : (hostRead i s).pstate = s.pstate := rfl
@[simp] theorem hostRead_syncPending (i : BitVec 5) : (hostRead i s).syncPending = s.syncPending := rfl
@[simp] theorem hostRead_syncArmed (i : BitVec 5) : (hostRead i s).syncArmed = s.syncArmed := rfl
@[simp] theorem hostRead_cfgGain (i : BitVec 5) : (hostRead i s).cfgGain = s.cfgGain := rfl
@[simp] theorem hostRead_cfgRate (i : BitVec 5) : (hostRead i s).cfgRate = s.cfgRate := rfl
@[simp] theorem hostRead_cfgChan (i : BitVec 5) : (hostRead i s).cfgChan = s.cfgChan := rfl
@[simp] theorem hostRead_lastByte (i : BitVec 5) : (hostRead i s).lastByte = s.lastByte := rfl
@[simp] theorem hostRead_lastSample (i : BitVec 5) : (hostRead i s).lastSample = s.lastSample := rfl
@[simp] theorem hostRead_lastWaitTimeout (i : BitVec 5) : (hostRead i s).lastWaitTimeout = s.lastWaitTimeout := rfl
@[simp] theorem hostRead_lastPolls (i : BitVec 5) : (hostRead i s).lastPolls = s.lastPolls := rfl
@[simp] theorem hostRead_timeoutCount (i : BitVec 5) : (hostRead i s).timeoutCount = s.timeoutCount := rfl
@[simp] theorem hostRead_xferCount (i : BitVec 5) : (hostRead i s).xferCount = s.xferCount := rfl
@[simp] theorem hostRead_faults (i : BitVec 5) : (hostRead i s).faults = s.faults := rfl
@[simp] theorem hostRead_faultWord (i : BitVec 5) : (hostRead i s).faultWord = s.faultWord := rfl
@[simp] theorem hostRead_stCount (i : BitVec 5) : (hostRead i s).stCount = s.stCount := rfl
@[simp] theorem hostRead_stMean (i : BitVec 5) : (hostRead i s).stMean = s.stMean := rfl
@[simp] theorem hostRead_stM2 (i : BitVec 5) : (hostRead i s).stM2 = s.stM2 := rfl
@[simp] theorem hostRead_stMin (i : BitVec 5) : (hostRead i s).stMin = s.stMin := rfl
@[simp] theorem hostRead_stMax (i : BitVec 5) : (hostRead i s).stMax = s.stMax := rfl
@[simp] theorem hostRead_finCount (i : BitVec 5) : (hostRead i s).finCount = s.finCount := rfl
@[simp] theorem hostRead_finMean (i : BitVec 5) : (hostRead i s).finMean = s.finMean := rfl
@[simp] theorem hostRead_finVar (i : BitVec 5) : (hostRead i s).finVar = s.finVar := rfl
@[simp] theorem hostRead_finStdev (i : BitVec 5) : (hostRead i s).finStdev = s.finStdev := rfl
@[simp] theorem hostRead_finMin (i : BitVec 5) : (hostRead i s).finMin = s.finMin := rfl
@[simp] theorem hostRead_finMax (i : BitVec 5) : (hostRead i s).finMax = s.finMax := rfl
@[simp] theorem hostRead_finP2P (i : BitVec 5) : (hostRead i s).finP2P = s.finP2P := rfl
@[simp] theorem hostRead_finNonEmpty (i : BitVec 5) : (hostRead i s).finNonEmpty = s.finNonEmpty := rfl
@[simp] theorem hostRead_finVarValid (i : BitVec 5) : (hostRead i s).finVarValid = s.finVarValid := rfl
@[simp] theorem hostRead_csN (i : BitVec 5) : (hostRead i s).csN = s.csN := rfl
@[simp] theorem hostRead_resetN (i : BitVec 5) : (hostRead i s).resetN = s.resetN := rfl
@[simp] theorem hostRead_trace (i : BitVec 5) : (hostRead i s).trace = s.trace := rfl
@[simp] theorem hostRead_params (i : BitVec 5) : (hostRead i s).params = s.params := rfl
@[simp] theorem hostRead_program (i : BitVec 5) : (hostRead i s).program = s.program := rfl
@[simp] theorem hostRead_resp (i : BitVec 5) : (hostRead i s).resp = s.resp := rfl
@[simp] theorem hostRead_readData (i : BitVec 5) : (hostRead i s).readData = resultRegister s i := rfl
@[simp] theorem hostRead_misoIn (i : BitVec 5) : (hostRead i s).misoIn = s.misoIn := rfl
@[simp] theorem hostRead_drdyIn (i : BitVec 5) : (hostRead i s).drdyIn = s.drdyIn := rfl
@[simp] theorem hostRead_misoDraws (i : BitVec 5) : (hostRead i s).misoDraws = s.misoDraws := rfl
@[simp] theorem hostRead_drdyDraws (i : BitVec 5) : (hostRead i s).drdyDraws = s.drdyDraws := rfl

end Sys2Proof.Machine
end

