-- ==== Sys2Proof/Laws/Ops.lean ====
section
/-! SUPPORT. One lemma per shared operation of Machine/Ops.lean that says everything it does. -/

namespace Sys2Proof.Machine

/-! ### The checks -/

theorem checked_halted {w : Word} {a b c : Bool} {f : State → State} {s : State} (h : halted s = true) :
    checked w a b c f s = respond .halted s := by simp [checked, h]

theorem checked_illegalArg {w : Word} {b c : Bool} {f : State → State} {s : State} (h : halted s = false) :
    checked w false b c f s = raise .illegalArg w s := by simp [checked, h]

theorem checked_order {w : Word} {c : Bool} {f : State → State} {s : State} (h : halted s = false) :
    checked w true false c f s = raise .order w s := by simp [checked, h]

theorem checked_countOvf {w : Word} {f : State → State} {s : State} (h : halted s = false) :
    checked w true true false f s = raise .countOvf w s := by simp [checked, h]

theorem checked_passed {w : Word} {f : State → State} {s : State} (h : halted s = false) :
    checked w true true true f s = f s := by simp [checked, h]

/-- Everything the checks of one op can lead to. -/
theorem checked_cases (w : Word) (a b c : Bool) (f : State → State) (s : State) :
    checked w a b c f s = respond .halted s ∨ (halted s = false ∧ checked w a b c f s = f s) ∨
      (halted s = false ∧ ∃ k, checked w a b c f s = raise k w s) := by
  unfold checked
  split
  · exact .inl rfl
  · rename_i h
    have h : halted s = false := by simpa using h
    split
    · split
      · split
        · exact .inr (.inl ⟨h, rfl⟩)
        · exact .inr (.inr ⟨h, _, rfl⟩)
      · exact .inr (.inr ⟨h, _, rfl⟩)
    · exact .inr (.inr ⟨h, _, rfl⟩)

/-! ### Draws and byte transfers -/

theorem misoAt_congr {s t : State} (h1 : s.misoIn = t.misoIn) (h2 : s.misoDraws = t.misoDraws) (k : Nat) :
    misoAt s k = misoAt t k := by simp [misoAt, h1, h2]

theorem drdyAt_congr {s t : State} (h1 : s.drdyIn = t.drdyIn) (h2 : s.drdyDraws = t.drdyDraws) (k : Nat) :
    drdyAt s k = drdyAt t k := by simp [drdyAt, h1, h2]

theorem misoAt_drop {s t : State} (n : Nat) (h1 : t.misoIn = s.misoIn.drop n) (h2 : t.misoDraws = s.misoDraws + n)
    (k : Nat) : misoAt t k = misoAt s (n + k) := by
  simp [misoAt, h1, h2, Nat.add_assoc]

theorem drdyAt_drop {s t : State} (n : Nat) (h1 : t.drdyIn = s.drdyIn.drop n) (h2 : t.drdyDraws = s.drdyDraws + n)
    (k : Nat) : drdyAt t k = drdyAt s (n + k) := by
  simp [drdyAt, h1, h2, Nat.add_assoc]

theorem xferEvents_drop {s t : State} (n : Nat) (h1 : t.misoIn = s.misoIn.drop n)
    (h2 : t.misoDraws = s.misoDraws + n) (bs : List Byte) (k : Nat) :
    xferEvents t k bs = xferEvents s (n + k) bs := by
  induction bs generalizing k with
  | nil => rfl
  | cons b bs ih => simp [xferEvents, ih, misoAt_drop n h1 h2, Nat.add_assoc]

theorem xferEvents_append (s : State) (k : Nat) (as bs : List Byte) :
    xferEvents s k (as ++ bs) = xferEvents s k as ++ xferEvents s (k + as.length) bs := by
  induction as generalizing k with
  | nil => simp [xferEvents]
  | cons a as ih => simp [xferEvents, ih, Nat.add_assoc, Nat.add_comm 1]

/-- One byte transfer (R81). -/
theorem byte_eq (b : Byte) (s : State) :
    byte b s = { s with trace := s.trace ++ [.delay .pre, .xfer b (misoAt s 0)], xferCount := s.xferCount + 1#32,
                        misoIn := s.misoIn.drop 1, misoDraws := s.misoDraws + 1 } := by
  simp [byte, countXfer, emit, dropMiso, delay, misoAt]

/-- Byte transfers one after the other. -/
theorem bytes_eq (bs : List Byte) (s : State) :
    bytes bs s = { s with trace := s.trace ++ xferEvents s 0 bs,
                          xferCount := s.xferCount + BitVec.ofNat 32 bs.length,
                          misoIn := s.misoIn.drop bs.length, misoDraws := s.misoDraws + bs.length } := by
  induction bs generalizing s with
  | nil => simp [bytes, xferEvents]
  | cons b bs ih =>
    rw [bytes, ih, byte_eq]
    have h : ∀ k, xferEvents { s with trace := s.trace ++ [.delay .pre, .xfer b (misoAt s 0)],
                                      xferCount := s.xferCount + 1#32, misoIn := s.misoIn.drop 1,
                                      misoDraws := s.misoDraws + 1 } k bs = xferEvents s (1 + k) bs :=
      fun k => xferEvents_drop 1 rfl rfl bs k
    simp only [h, xferEvents, List.append_assoc, List.cons_append, List.nil_append, List.length_cons, List.drop_drop]
    congr 1
    · rw [BitVec.add_assoc, ← BitVec.ofNat_add, Nat.add_comm]
    · rw [Nat.add_comm]
    · omega

/-! ### Transactions -/

/-- A transaction that only sends bytes (R83, R103). -/
theorem send_eq (bs : List Byte) (armed : Bool) (s : State) :
    setArmed armed (csHigh (bytes bs (csLow s))) = transferred bs.length (frameEvents s 0 bs) armed s := by
  have h : xferEvents (csLow s) 0 bs = xferEvents s 0 bs := by
    simpa using xferEvents_drop (s := s) (t := csLow s) 0 rfl rfl bs 0
  rw [bytes_eq, h]
  simp [csLow, csHigh, setCs, emit, setArmed, transferred, frameEvents]

/-- R140. -/
theorem wregTx_eq (id : BitVec 4) (data : List Byte) (s : State) :
    wregTx id data s =
      { transferred (data.length + 2) (frameEvents s 0 (wregByte id :: countByte data.length :: data)) false s with
        syncPending := writesMux id data.length || s.syncPending } := by
  unfold wregTx
  rw [send_eq]
  cases h : writesMux id data.length <;> simp [setPending, transferred]

/-- R146. -/
theorem rregTx_eq (id : BitVec 4) (s : State) :
    rregTx id s = (misoAt s 2, transferred 3 (readEvents s id) false s) := by
  have e : rregHeader id s = delay .turn (bytes [rregByte id, 0x00#8] (csLow s)) := rfl
  have h : ∀ k, xferEvents (csLow s) k [rregByte id, 0x00#8] = xferEvents s k [rregByte id, 0x00#8] := fun k => by
    simpa using xferEvents_drop (s := s) (t := csLow s) 0 rfl rfl [rregByte id, 0x00#8] k
  have hm : misoAt (rregHeader id s) 0 = misoAt s 2 := by
    rw [e, bytes_eq]
    exact misoAt_drop 2 rfl rfl 0
  unfold rregTx
  simp only [hm]
  rw [byte_eq, hm, e, bytes_eq, h]
  simp only [csLow, csHigh, setCs, emit, setArmed, transferred, readEvents, delay, Prod.mk.injEq, true_and]
  have hz : s.xferCount + BitVec.ofNat 32 2 + 1#32 = s.xferCount + BitVec.ofNat 32 3 := by
    rw [BitVec.add_assoc, ← BitVec.ofNat_add]
  simp [Config.dummy, xferEvents, hz]

/-- R149, before the command's effect. -/
theorem cmdTx_eq (c : Byte) (s : State) :
    cmdTx c s = commandEffect c s.syncArmed (transferred 1 (frameEvents s 0 [c]) (c == 0xFC#8) s) := by
  have h := send_eq [c] (c == 0xFC#8) s
  simp only [bytes, List.length_singleton] at h
  rw [cmdTx, h]

/-- R211. -/
theorem sampleTx_eq (s : State) :
    sampleTx s = transferred 3 (frameEvents s 0 [0xFF#8, 0xFF#8, 0xFF#8]) false s := by
  unfold sampleTx
  exact send_eq _ _ s

/-! ### The ready wait -/

/-- The polls that are left of a budget, from the k-th on. -/
theorem pollLoop_eq (budget : BitVec 24) (n k : Nat) (s : State) :
    pollLoop budget n k s =
      match firstReady s n with
      | some j => (false, { s with
          trace := s.trace ++ (List.replicate j (.poll true) ++ [.poll false]),
          lastPolls := BitVec.ofNat 32 (k + j + 1), lastWaitTimeout := false,
          drdyIn := s.drdyIn.drop (j + 1), drdyDraws := s.drdyDraws + (j + 1) })
      | none => (true, { s with
          trace := s.trace ++ (List.replicate n (.poll true) ++ [.timeout]),
          lastPolls := budget.setWidth 32, lastWaitTimeout := true, timeoutCount := satInc s.timeoutCount,
          drdyIn := s.drdyIn.drop n, drdyDraws := s.drdyDraws + n }) := by
  induction n generalizing k s with
  | zero => simp [pollLoop, firstReady, waitTimeout, setWait, bumpTimeouts, emitTimeout, emit]
  | succ n ih =>
    have hs : ∀ j, drdyAt (pollDrdy s) j = drdyAt s (j + 1) := fun j => by
      rw [drdyAt_drop (s := s) (t := pollDrdy s) 1 (by simp [pollDrdy, emit, dropDrdy]) rfl, Nat.add_comm]
    have hf : firstReady s (n + 1) = if drdyAt s 0 then (firstReady (pollDrdy s) n).map (· + 1) else some 0 := by
      simp only [firstReady, List.range_succ_eq_map, List.find?_cons, List.find?_map, Function.comp_def, hs]
      cases drdyAt s 0 <;> simp
    rw [pollLoop, hf]
    cases h : drdyAt s 0
    · simp [waitReady, setWait, pollDrdy, emit, dropDrdy, h]
    · simp only [if_true, ih]
      cases firstReady (pollDrdy s) n with
      | none => simp [pollDrdy, emit, dropDrdy, h, List.replicate_succ, Nat.add_assoc, Nat.add_comm 1]
      | some j => simp [pollDrdy, emit, dropDrdy, h, List.replicate_succ, Nat.add_comm, Nat.add_left_comm]

/-- R200: a ready wait. -/
theorem readyWait_eq (budget : BitVec 24) (s : State) :
    readyWait budget s = ((firstReady s budget.toNat).isNone, waited budget.toNat s) := by
  have hd : ∀ n, firstReady (delay .settle s) n = firstReady s n := fun _ => rfl
  have hb : budget.setWidth 32 = BitVec.ofNat 32 budget.toNat :=
    BitVec.eq_of_toNat_eq (by simp)
  rw [readyWait, pollLoop_eq, hd]
  unfold waited waitEvents
  cases firstReady s budget.toNat with
  | none => simp only [delay, emit, hb, List.append_assoc, List.cons_append, List.nil_append, Option.isNone_none]
  | some j =>
    simp only [delay, emit, List.append_assoc, List.cons_append, List.nil_append, Option.isNone_some, Nat.zero_add]

/-- The response after a ready wait. -/
theorem waitStatus_eq (budget : Nat) (s : State) :
    waitStatus (firstReady s budget).isNone = waitedStatus budget s := by
  unfold waitStatus waitedStatus
  cases firstReady s budget <;> rfl

/-- A ready wait draws no MISO byte. -/
theorem misoAt_waited (budget : Nat) (s : State) (k : Nat) : misoAt (waited budget s) k = misoAt s k := by
  unfold waited
  cases firstReady s budget <;> rfl

/-! A ready wait changes the trace, the three fields of R41 and the DRDY_N draws, and nothing else. -/

theorem waited_trace (budget : Nat) (s : State) : (waited budget s).trace = s.trace ++ waitEvents s budget := by
  unfold waited; split <;> rfl

@[simp] theorem waited_pstate (budget : Nat) (s : State) : (waited budget s).pstate = s.pstate := by
  unfold waited; split <;> rfl

@[simp] theorem waited_syncPending (budget : Nat) (s : State) : (waited budget s).syncPending = s.syncPending := by
  unfold waited; split <;> rfl

@[simp] theorem waited_syncArmed (budget : Nat) (s : State) : (waited budget s).syncArmed = s.syncArmed := by
  unfold waited; split <;> rfl

@[simp] theorem waited_cfgGain (budget : Nat) (s : State) : (waited budget s).cfgGain = s.cfgGain := by
  unfold waited; split <;> rfl

@[simp] theorem waited_cfgRate (budget : Nat) (s : State) : (waited budget s).cfgRate = s.cfgRate := by
  unfold waited; split <;> rfl

@[simp] theorem waited_cfgChan (budget : Nat) (s : State) : (waited budget s).cfgChan = s.cfgChan := by
  unfold waited; split <;> rfl

@[simp] theorem waited_lastByte (budget : Nat) (s : State) : (waited budget s).lastByte = s.lastByte := by
  unfold waited; split <;> rfl

@[simp] theorem waited_lastSample (budget : Nat) (s : State) : (waited budget s).lastSample = s.lastSample := by
  unfold waited; split <;> rfl

@[simp] theorem waited_xferCount (budget : Nat) (s : State) : (waited budget s).xferCount = s.xferCount := by
  unfold waited; split <;> rfl

@[simp] theorem waited_faults (budget : Nat) (s : State) : (waited budget s).faults = s.faults := by
  unfold waited; split <;> rfl

@[simp] theorem waited_faultWord (budget : Nat) (s : State) : (waited budget s).faultWord = s.faultWord := by
  unfold waited; split <;> rfl

@[simp] theorem waited_stCount (budget : Nat) (s : State) : (waited budget s).stCount = s.stCount := by
  unfold waited; split <;> rfl

@[simp] theorem waited_stMean (budget : Nat) (s : State) : (waited budget s).stMean = s.stMean := by
  unfold waited; split <;> rfl

@[simp] theorem waited_stM2 (budget : Nat) (s : State) : (waited budget s).stM2 = s.stM2 := by
  unfold waited; split <;> rfl

@[simp] theorem waited_stMin (budget : Nat) (s : State) : (waited budget s).stMin = s.stMin := by
  unfold waited; split <;> rfl

@[simp] theorem waited_stMax (budget : Nat) (s : State) : (waited budget s).stMax = s.stMax := by
  unfold waited; split <;> rfl

@[simp] theorem waited_finCount (budget : Nat) (s : State) : (waited budget s).finCount = s.finCount := by
  unfold waited; split <;> rfl

@[simp] theorem waited_finMean (budget : Nat) (s : State) : (waited budget s).finMean = s.finMean := by
  unfold waited; split <;> rfl

@[simp] theorem waited_finVar (budget : Nat) (s : State) : (waited budget s).finVar = s.finVar := by
  unfold waited; split <;> rfl

@[simp] theorem waited_finStdev (budget : Nat) (s : State) : (waited budget s).finStdev = s.finStdev := by
  unfold waited; split <;> rfl

@[simp] theorem waited_finMin (budget : Nat) (s : State) : (waited budget s).finMin = s.finMin := by
  unfold waited; split <;> rfl

@[simp] theorem waited_finMax (budget : Nat) (s : State) : (waited budget s).finMax = s.finMax := by
  unfold waited; split <;> rfl

@[simp] theorem waited_finP2P (budget : Nat) (s : State) : (waited budget s).finP2P = s.finP2P := by
  unfold waited; split <;> rfl

@[simp] theorem waited_finNonEmpty (budget : Nat) (s : State) : (waited budget s).finNonEmpty = s.finNonEmpty := by
  unfold waited; split <;> rfl

@[simp] theorem waited_finVarValid (budget : Nat) (s : State) : (waited budget s).finVarValid = s.finVarValid := by
  unfold waited; split <;> rfl

@[simp] theorem waited_csN (budget : Nat) (s : State) : (waited budget s).csN = s.csN := by
  unfold waited; split <;> rfl

@[simp] theorem waited_resetN (budget : Nat) (s : State) : (waited budget s).resetN = s.resetN := by
  unfold waited; split <;> rfl

@[simp] theorem waited_params (budget : Nat) (s : State) : (waited budget s).params = s.params := by
  unfold waited; split <;> rfl

@[simp] theorem waited_program (budget : Nat) (s : State) : (waited budget s).program = s.program := by
  unfold waited; split <;> rfl

@[simp] theorem waited_resp (budget : Nat) (s : State) : (waited budget s).resp = s.resp := by
  unfold waited; split <;> rfl

@[simp] theorem waited_readData (budget : Nat) (s : State) : (waited budget s).readData = s.readData := by
  unfold waited; split <;> rfl

@[simp] theorem waited_misoIn (budget : Nat) (s : State) : (waited budget s).misoIn = s.misoIn := by
  unfold waited; split <;> rfl

@[simp] theorem waited_misoDraws (budget : Nat) (s : State) : (waited budget s).misoDraws = s.misoDraws := by
  unfold waited; split <;> rfl

end Sys2Proof.Machine
end

