-- ==== Sys2Proof/Laws/PerInstr.lean ====
section
/-! SUPPORT. TableRow: the encoding of every well-formed instruction meets the mask and match of its row of
spec/opcode_table.json. -/

namespace Sys2Proof.Laws.TableRow

open Sys2Proof.Machine

/-- The instruction's encoding meets its row. -/
def Statement (i : Instr) : Prop := i.wellFormed = true → tableBits (encode i) &&& (tableRow i).1 = (tableRow i).2

/-- A word meets a mask and match when each bit does. -/
theorem word_meets (w m v : Word) (h : ∀ i, i < 32 → (w.getLsbD i && m.getLsbD i) = v.getLsbD i) :
    w.toNat &&& m.toNat = v.toNat := by
  rw [← BitVec.toNat_and]
  congr 1
  apply BitVec.eq_of_getLsbD_eq
  intro i hi
  rw [BitVec.getLsbD_and, h i hi]

theorem init : Statement .init := fun _ => rfl

theorem wreg (id : BitVec 4) (val : Byte) : Statement (.wreg id val) := fun _ => by
  apply word_meets (wregWord id val) 0xFFF0FF00#32 0x02000000#32
  intro i hi
  rw [wregWord, hostWord_getLsbD]
  simp only [BitVec.getLsbD_or, fieldAt_getLsbD]
  interval_cases i <;> simp

theorem rreg (id : BitVec 4) : Statement (.rreg id) := fun _ => by
  apply word_meets (rregWord id) 0xFFF0FFFF#32 0x03000000#32
  intro i hi
  rw [rregWord, hostWord_getLsbD]
  simp only [fieldAt_getLsbD]
  interval_cases i <;> simp

theorem cmd (c : Byte) : Statement (.cmd c) := fun _ => by
  apply word_meets (cmdWord c) 0xFFFFFF00#32 0x04000000#32
  intro i hi
  rw [cmdWord, hostWord_getLsbD]
  simp only [fieldAt_getLsbD]
  interval_cases i <;> simp

theorem config (g : BitVec 3) (r : BitVec 4) : Statement (.config g r) := fun _ => by
  apply word_meets (hostWord 0x05#8 (fieldAt 8 g ||| fieldAt 0 r)) 0xFFFFF8F0#32 0x05000000#32
  intro i hi
  rw [hostWord_getLsbD]
  simp only [BitVec.getLsbD_or, fieldAt_getLsbD]
  interval_cases i <;> simp

theorem selch (ch : BitVec 4) : Statement (.selch ch) := fun _ => by
  apply word_meets (hostWord 0x06#8 (fieldAt 0 ch)) 0xFFFFFFF0#32 0x06000000#32
  intro i hi
  rw [hostWord_getLsbD]
  simp only [fieldAt_getLsbD]
  interval_cases i <;> simp

theorem syncwake : Statement .syncwake := fun _ => rfl

theorem wait (budget : BitVec 24) : Statement (.wait budget) := fun _ => by
  apply word_meets (hostWord 0x08#8 (fieldAt 0 budget)) 0xFF000000#32 0x08000000#32
  intro i hi
  rw [hostWord_getLsbD]
  simp only [fieldAt_getLsbD]
  interval_cases i <;> simp

theorem rdsample (acc : Bool) : Statement (.rdsample acc) := fun _ => by cases acc <;> rfl

theorem stclr : Statement .stclr := fun _ => rfl

theorem stupd (v : BitVec 24) : Statement (.stupd v) := fun _ => by
  apply word_meets (hostWord 0x0B#8 (fieldAt 0 v)) 0xFF000000#32 0x0B000000#32
  intro i hi
  rw [hostWord_getLsbD]
  simp only [fieldAt_getLsbD]
  interval_cases i <;> simp

theorem stfin : Statement .stfin := fun _ => rfl

theorem wakeup : Statement .wakeup := fun _ => rfl

theorem rdata : Statement .rdata := fun _ => rfl

theorem rdatac : Statement .rdatac := fun _ => rfl

theorem sdatac : Statement .sdatac := fun _ => rfl

theorem selfcal : Statement .selfcal := fun _ => rfl

theorem selfocal : Statement .selfocal := fun _ => rfl

theorem selfgcal : Statement .selfgcal := fun _ => rfl

theorem sysocal : Statement .sysocal := fun _ => rfl

theorem sysgcal : Statement .sysgcal := fun _ => rfl

theorem sync : Statement .sync := fun _ => rfl

theorem standby : Statement .standby := fun _ => rfl

theorem devReset : Statement .devReset := fun _ => rfl

theorem rregDev (id : BitVec 4) : Statement (.rregDev id) := fun _ => by
  show (rregByte id).toNat &&& 0xF0 = 0x10
  revert id
  decide

theorem wregByte_meets (id : BitVec 4) : (wregByte id).toNat &&& 0xF0 = 0x50 := by
  revert id
  decide

theorem wregDev (id : BitVec 4) (data : List Byte) : Statement (.wregDev id data) := fun _ => wregByte_meets id

end Sys2Proof.Laws.TableRow
end

