-- ==== Sys2Proof/Laws/Step.lean ====
section
/-! SUPPORT. What a step can do, said once: a checked op answers HALTED, takes a fault, or runs one of twelve bodies. -/

namespace Sys2Proof.Machine

/-- The bodies that an op runs after its checks, each with what the checks have shown. -/
inductive Body : State → State → Prop
  | wreg (id : BitVec 4) (data : List Byte) (s : State) :
      burstIdsOk id data.length = true → burstLengthOk data = true → inConfigStates s.pstate = true →
      Body s (respond .ok (wregTx id data s))
  | rreg (id : BitVec 4) (s : State) : idOk id = true → inConfigStates s.pstate = true →
      Body s (respond .ok (setLastByte (rregTx id s).1 (rregTx id s).2))
  | cmd (c : Byte) (s : State) : cmdOk c = true → cmdStateOk c s.pstate s.syncPending = true →
      Body s (respond .ok (cmdTx c s))
  | init (s : State) : s.pstate = .reset → Body s (identify (requestWord .init) s)
  | config (g : BitVec 3) (r : BitVec 4) (s : State) : gainOk g = true → inConfigStates s.pstate = true →
      Body s (configure g r s)
  | selch (ch : BitVec 4) (s : State) : inSelectStates s.pstate = true → Body s (selectChannel ch s)
  | syncwake (s : State) : inConfigStates s.pstate = true → Body s (syncWake s)
  | wait (budget : BitVec 24) (s : State) : Body s (waitOp budget s)
  | rdsample (acc : Bool) (s : State) : s.pstate = .cont → (acc = true → countHasRoom s = true) →
      Body s (readSample acc s)
  | stclr (s : State) : Body s (respond .ok (clearStats s))
  | stupd (v : BitVec 24) (s : State) : countHasRoom s = true → Body s (respond .ok (accumulate (sext24 v) s))
  | stfin (s : State) : Body s (respond .ok (finalize s))

/-- R266, R267: the three outcomes of an op for the request word w. -/
inductive Outcomes (w : Word) (s : State) : State → Prop
  | halted : halted s = true → Outcomes w s (respond .halted s)
  | fault (c : FaultCode) : halted s = false → Outcomes w s (raise c w s)
  | ran {t : State} : halted s = false → Body s t → Outcomes w s t

theorem checked_outcomes {w : Word} {argOk stateOk roomOk : Bool} {body : State → State} {s : State}
    (h : argOk = true → stateOk = true → roomOk = true → Body s (body s)) :
    Outcomes w s (checked w argOk stateOk roomOk body s) := by
  unfold checked
  split
  · exact .halted ‹_›
  · rename_i hs
    have hs : halted s = false := by simpa using hs
    split
    · split
      · split
        · exact .ran hs (h ‹_› ‹_› ‹_›)
        · exact .fault _ hs
      · exact .fault _ hs
    · exact .fault _ hs

theorem writeRegisters_outcomes (w : Word) (id : BitVec 4) (data : List Byte) (s : State)
    (h : burstLengthOk data = true) : Outcomes w s (writeRegisters w id data s) :=
  checked_outcomes fun ha hs _ => .wreg id data s ha h hs

theorem readRegister_outcomes (w : Word) (id : BitVec 4) (s : State) : Outcomes w s (readRegister w id s) :=
  checked_outcomes fun ha hs _ => .rreg id s ha hs

theorem sendCommand_outcomes (w : Word) (c : Byte) (s : State) : Outcomes w s (sendCommand w c s) :=
  checked_outcomes fun ha hs _ => .cmd c s ha hs

/-- What exec can do, whatever the instruction. -/
theorem exec_outcomes {i : Instr} {s t : State} (h : exec i s = .next t) : Outcomes (requestWord i) s t := by
  cases i with
  | wregDev id data =>
    simp only [exec, execWregDev] at h
    split at h
    · injection h with h; subst h; exact writeRegisters_outcomes _ _ _ _ ‹_›
    · cases h
  | init => injection h with h; subst h; exact checked_outcomes fun _ hs _ => .init s (by simpa using hs)
  | wreg id val => injection h with h; subst h; exact writeRegisters_outcomes _ _ _ _ rfl
  | config g r => injection h with h; subst h; exact checked_outcomes fun ha hs _ => .config g r s ha hs
  | selch ch => injection h with h; subst h; exact checked_outcomes fun _ hs _ => .selch ch s hs
  | syncwake => injection h with h; subst h; exact checked_outcomes fun _ hs _ => .syncwake s hs
  | wait budget => injection h with h; subst h; exact checked_outcomes fun _ _ _ => .wait budget s
  | rdsample acc =>
    injection h with h; subst h
    exact checked_outcomes fun _ hs hr => .rdsample acc s (by simpa using hs) fun ha => by simpa [ha] using hr
  | stclr => injection h with h; subst h; exact checked_outcomes fun _ _ _ => .stclr s
  | stupd v => injection h with h; subst h; exact checked_outcomes fun _ _ hr => .stupd v s hr
  | stfin => injection h with h; subst h; exact checked_outcomes fun _ _ _ => .stfin s
  | rreg id => injection h with h; subst h; exact readRegister_outcomes _ _ _
  | rregDev id => injection h with h; subst h; exact readRegister_outcomes _ _ _
  | cmd c => injection h with h; subst h; exact sendCommand_outcomes _ _ _
  | wakeup => injection h with h; subst h; exact sendCommand_outcomes _ _ _
  | rdata => injection h with h; subst h; exact sendCommand_outcomes _ _ _
  | rdatac => injection h with h; subst h; exact sendCommand_outcomes _ _ _
  | sdatac => injection h with h; subst h; exact sendCommand_outcomes _ _ _
  | selfcal => injection h with h; subst h; exact sendCommand_outcomes _ _ _
  | selfocal => injection h with h; subst h; exact sendCommand_outcomes _ _ _
  | selfgcal => injection h with h; subst h; exact sendCommand_outcomes _ _ _
  | sysocal => injection h with h; subst h; exact sendCommand_outcomes _ _ _
  | sysgcal => injection h with h; subst h; exact sendCommand_outcomes _ _ _
  | sync => injection h with h; subst h; exact sendCommand_outcomes _ _ _
  | standby => injection h with h; subst h; exact sendCommand_outcomes _ _ _
  | devReset => injection h with h; subst h; exact sendCommand_outcomes _ _ _

/-- What one host action can do. -/
theorem hostAction_outcomes {a : HostAction} {s t : State} (h : hostAction a s = .next t) :
    (a = .rst ∧ t = engineReset s) ∨ (∃ k, a = .read k ∧ t = hostRead k s) ∨ (a ≠ .rst ∧ ∃ w, Outcomes w s t) := by
  cases a with
  | rst => injection h with h; exact .inl ⟨rfl, h.symm⟩
  | read k => injection h with h; exact .inr (.inl ⟨k, rfl, h.symm⟩)
  | issue w =>
    refine .inr (.inr ⟨nofun, ?_⟩)
    simp only [hostAction, runWord] at h
    split at h
    · exact ⟨_, exec_outcomes h⟩
    · injection h with h
      split at h
      · subst h; exact ⟨0#32, .halted ‹_›⟩
      · rename_i hs; subst h; exact ⟨w, .fault _ (by simpa using hs)⟩
  | frame bytes =>
    refine .inr (.inr ⟨nofun, ?_⟩)
    simp only [hostAction, runFrame] at h
    split at h
    · exact ⟨_, exec_outcomes h⟩
    · split at h
      · injection h with h; subst h; exact ⟨0#32, .halted ‹_›⟩
      · cases h

/-- What one step can do. -/
theorem step_outcomes {s t : State} (h : step s = .next t) :
    (s.program = [] ∧ t = s) ∨
      ∃ a rest, s.program = a :: rest ∧ hostAction a { s with program := rest } = .next t := by
  simp only [step, hostStep] at h
  split at h
  · injection h with h; exact .inl ⟨‹_›, h.symm⟩
  · exact .inr ⟨_, _, ‹_›, h⟩

/-- A property that every engine state after reset has, that no host-side field and no fault entry can spoil, and that
every body keeps, is kept by every step. -/
theorem step_keeps {Inv : State → Prop}
    (side : ∀ s p r d, Inv s → Inv { s with program := p, resp := r, readData := d })
    (reset : ∀ s, Inv (engineReset s))
    (fault : ∀ s c w, halted s = false → Inv s → Inv (raise c w s))
    (body : ∀ s t, halted s = false → Inv s → Body s t → Inv t)
    {s t : State} (hs : Inv s) (h : step s = .next t) : Inv t := by
  rcases step_outcomes h with ⟨_, rfl⟩ | ⟨a, rest, _, ha⟩
  · exact hs
  · have hp := side s rest s.resp s.readData hs
    rcases hostAction_outcomes ha with ⟨_, rfl⟩ | ⟨k, _, rfl⟩ | ⟨_, w, h⟩
    · exact reset _
    · exact side _ rest s.resp _ hp
    · cases h with
      | halted _ => exact side _ rest _ s.readData hp
      | fault c h0 => exact fault _ _ _ h0 hp
      | ran h0 hb => exact body _ _ h0 hp hb

end Sys2Proof.Machine
end

