-- ==== Sys2Proof/Machine/Oracle.lean ====
section
/-! DEFINITION. The reference device oracle of spec/20_memory.md R88. It is informative: the machine's step does not
read it (the draws of R87 are free). A claim or a test that wants the oracle's draws asks that a trace be one of the
oracle's (oracleReplay). -/

namespace Sys2Proof.Machine

/-- R88: the oracle's state. `cur` is the transaction's bytes so far; `cont` is the device's continuous mode, followed
through the commands 0x03, 0x0F and 0xFE (log 19). -/
structure Oracle where
  regs    : List Byte
  levels  : List Bool
  samples : List (BitVec 24)
  cur     : List Byte
  cont    : Bool
  deriving DecidableEq, Repr

/-- R88: the initial registers. -/
def oracleRegs : List Byte :=
  [0x31#8, 0x01#8, 0x20#8, 0xF0#8, 0xE0#8, 0x00#8, 0x00#8, 0x00#8, 0x00#8, 0x00#8, 0x00#8]

/-- R88: the default oracle: every poll reads 0, every sample is 0. -/
def oracleStart : Oracle where
  regs := oracleRegs
  levels := []
  samples := []
  cur := []
  cont := false

/-- R88: a register write keeps STATUS[7:4] and STATUS[0]. -/
def oracleWrite (regs : List Byte) (id : Nat) (d : Byte) : List Byte :=
  if id = 0 then regs.set 0 (((regs.head?).getD 0#8 &&& 0xF1#8) ||| (d &&& 0x0E#8)) else regs.set id d

/-- R72: byte k of a sample, most significant first. -/
def sampleByte (x : BitVec 24) (k : Nat) : Byte := x.extractLsb' (8 * (2 - k)) 8

/-- R88: the MISO byte answered to the next byte of the transaction. -/
def oracleMiso (o : Oracle) : Byte :=
  match o.cur with
  | [] => if o.cont then sampleByte ((o.samples.head?).getD 0#24) 0 else 0x00#8
  | [b, 0x00#8] =>
    if b.extractLsb' 4 4 = 0x1#4 then (o.regs[(b.extractLsb' 0 4).toNat]?).getD 0x00#8 else 0x00#8
  | [0xFF#8] => if o.cont then sampleByte ((o.samples.head?).getD 0#24) 1 else 0x00#8
  | [0xFF#8, 0xFF#8] => if o.cont then sampleByte ((o.samples.head?).getD 0#24) 2 else 0x00#8
  | _ => 0x00#8

/-- R88: the registers after the next byte of the transaction, `d`. -/
def oracleRegsAfter (o : Oracle) (d : Byte) : List Byte :=
  match o.cur with
  | b :: n :: ds =>
    if b.extractLsb' 4 4 = 0x5#4 ∧ ds.length ≤ n.toNat then
      oracleWrite o.regs ((b.extractLsb' 0 4).toNat + ds.length) d
    else o.regs
  | _ => o.regs

/-- R88: the end of a transaction. -/
def oracleClose (o : Oracle) : Oracle :=
  match o.cur with
  | [0x03#8] => { o with cur := [], cont := true }
  | [0x0F#8] => { o with cur := [], cont := false }
  | [0xFE#8] => { o with cur := [], cont := false, regs := oracleRegs }
  | [0xFF#8, 0xFF#8, 0xFF#8] => { o with cur := [], samples := if o.cont then o.samples.tail else o.samples }
  | _ => { o with cur := [] }

/-- R88: one event, or none if its draw is not the oracle's. In continuous mode the first byte of a sample frame is
answered with sample data only if it is DUMMY. -/
def oracleEvent (o : Oracle) : Event → Option Oracle
  | .csFall => some { o with cur := [] }
  | .csRise => some (oracleClose o)
  | .xfer m r =>
    let answer := if o.cur = [] ∧ m ≠ 0xFF#8 then 0x00#8 else oracleMiso o
    if r = answer then some { o with regs := oracleRegsAfter o m, cur := o.cur ++ [m] } else none
  | .poll l => if l = (o.levels.head?).getD false then some { o with levels := o.levels.tail } else none
  | .delay _ | .timeout => some o

/-- R88: the oracle after a trace, or none if the trace's draws are not the oracle's. -/
def oracleReplay (o : Oracle) : List Event → Option Oracle
  | [] => some o
  | e :: es =>
    match oracleEvent o e with
    | some o' => oracleReplay o' es
    | none => none

end Sys2Proof.Machine
end

