-- ==== Sys2Proof/Tests/Slice0.lean ====
section
/-! SUPPORT. Small tests. Expected values come from spec/95_test_vectors.md (V-…, W…) or are written out from the
encodings of spec/30_encoding.md; the named start states are that file's, with their traces emptied. The last part
shows, for every statement with hypotheses, values that meet them. -/

namespace Sys2Proof.Tests

open Sys2Proof.Machine

/-! ### Start states (95_test_vectors.md, Conventions) -/

def testParams : Params :=
  { waitBudget := 16#24, expectedId := 3#4, drateCode := Config.drateDefault, tPre := 2, tTurn := 10, tSettle := 5,
    tSyncGap := 7, tWakeGap := 3 }

/-- S0. -/
def s0 : State := { State.reset with params := testParams }

/-- S_IDLE. -/
def sIdle : State := { s0 with pstate := .idle, lastByte := 0x31#8, lastPolls := 1#32, xferCount := 3#32 }

/-- S_CFG. -/
def sCfg : State := { sIdle with pstate := .configured, syncPending := true, xferCount := 9#32 }

/-- S_CHSEL. -/
def sChsel : State := { sCfg with pstate := .chsel, cfgChan := 2#3, xferCount := 12#32 }

/-- S_READY. -/
def sReady : State := { sChsel with syncPending := false, xferCount := 14#32 }

/-- S_CONT. -/
def sCont : State := { sReady with pstate := .cont, xferCount := 15#32 }

/-- The state with the device's draws given. -/
def given (miso : List Byte) (drdy : List Bool) (s : State) : State := { s with misoIn := miso, drdyIn := drdy }

/-- A view of the state after one step that issues the word. -/
def after {α : Type} (f : State → α) (w : Word) (s : State) : Option α :=
  match step { s with program := [.issue w] } with
  | .next t => some (f t)
  | .fault _ => none
  | .refused _ => none

/-- A view of the state after one step that presents a device command frame. -/
def afterFrame {α : Type} (f : State → α) (bytes : List Byte) (s : State) : Option α :=
  match step { s with program := [.frame bytes] } with
  | .next t => some (f t)
  | .fault _ => none
  | .refused _ => none

/-- Response, STATUS result, and number of bus events. -/
def seen (s : State) : Option Status × BitVec 64 × Nat := (s.resp, statusRegister s, s.trace.length)

/-! ### WellFormed: R140 sends 1 to 4 data bytes -/

theorem test_wellFormed_empty : (Instr.wregDev 0#4 []).wellFormed = false := by decide

theorem test_wellFormed_five :
    (Instr.wregDev 0#4 [0#8, 0#8, 0#8, 0#8, 0#8]).wellFormed = false := by decide

theorem test_wellFormed_bounds :
    (Instr.wregDev 0#4 [0#8]).wellFormed = true ∧ (Instr.wregDev 15#4 [0#8, 0#8, 0#8, 0#8]).wellFormed = true := by
  decide

/-- A term that no decoder makes stops. -/
theorem test_illFormed_stops : exec (.wregDev 0#4 []) sIdle = .fault .illFormed := rfl

/-! ### Decoding: words written out from R110–R120, frames from R100–R102 -/

/-- R113, R114, R115: WREG 10, 0xA5; RREG 9; CMD 0xF4. -/
theorem test_decode_register_protocol :
    decodeWord 0b00000010000010100000000010100101#32 = .ok (.wreg 10#4 0xA5#8) ∧
      decodeWord 0b00000011000010010000000000000000#32 = .ok (.rreg 9#4) ∧
      decodeWord 0b00000100000000000000000011110100#32 = .ok (.cmd 0xF4#8) := by decide

/-- R112, R116, R117: INIT; CONFIG code 5, rate 9; SELCH 6; SYNCWAKE. -/
theorem test_decode_channel_configurator :
    decodeWord 0b00000001000000000000000000000000#32 = .ok .init ∧
      decodeWord 0b00000101000000000000010100001001#32 = .ok (.config 5#3 9#4) ∧
      decodeWord 0b00000110000000000000000000000110#32 = .ok (.selch 6#4) ∧
      decodeWord 0b00000111000000000000000000000000#32 = .ok .syncwake := by decide

/-- R118, R119: WAIT 0x800001; RDSAMPLE without and with ACC. -/
theorem test_decode_ready_gate_sampler :
    decodeWord 0b00001000100000000000000000000001#32 = .ok (.wait 0x800001#24) ∧
      decodeWord 0b00001001000000000000000000000000#32 = .ok (.rdsample false) ∧
      decodeWord 0b00001001000000000000000000000001#32 = .ok (.rdsample true) := by decide

/-- R112, R120: STCLR; STUPD −2; STFIN. -/
theorem test_decode_statistics :
    decodeWord 0b00001010000000000000000000000000#32 = .ok .stclr ∧
      decodeWord 0b00001011111111111111111111111110#32 = .ok (.stupd 0xFFFFFE#24) ∧
      decodeWord 0b00001100000000000000000000000000#32 = .ok .stfin := by decide

/-- R102: the twelve single-byte commands. -/
theorem test_decode_single_byte_commands :
    [0x00#8, 0x01#8, 0x03#8, 0x0F#8, 0xF0#8, 0xF1#8, 0xF2#8, 0xF3#8, 0xF4#8, 0xFC#8, 0xFD#8, 0xFE#8].map
        (fun b => decode (.frame [b])) =
      [.ok .wakeup, .ok .rdata, .ok .rdatac, .ok .sdatac, .ok .selfcal, .ok .selfocal, .ok .selfgcal, .ok .sysocal,
       .ok .sysgcal, .ok .sync, .ok .standby, .ok .devReset] := by decide

/-- R101, R102: register read 3, and register writes of one and of four bytes. -/
theorem test_decode_register_commands :
    decode (.frame [0b00010011#8, 0b00000000#8]) = .ok (.rregDev 3#4) ∧
      decode (.frame [0b01011010#8, 0b00000000#8, 0x77#8]) = .ok (.wregDev 10#4 [0x77#8]) ∧
      decode (.frame [0b01010000#8, 0b00000011#8, 1#8, 2#8, 3#8, 4#8]) =
        .ok (.wregDev 0#4 [1#8, 2#8, 3#8, 4#8]) := by decide

/-- R121: reserved bits, and opcodes that are no instruction; V-WREG-4, V-RD-6, V-ST-20, V-F-1 to V-F-3. -/
theorem test_decode_refuses_words :
    decodeWord 0x02100000#32 = .error .reservedBits ∧ decodeWord 0x09000002#32 = .error .reservedBits ∧
      decodeWord 0x0A800000#32 = .error .reservedBits ∧ decodeWord 0x05000800#32 = .error .reservedBits ∧
      decodeWord 0x05000010#32 = .error .reservedBits ∧ decodeWord 0x00000000#32 = .error .illegalOpcode ∧
      decodeWord 0x0D000000#32 = .error .illegalOpcode ∧ decodeWord 0xFF000000#32 = .error .illegalOpcode := by decide

/-- R100–R102: frames that are no command. -/
theorem test_decode_refuses_frames :
    decode (.frame []) = .error .emptyFrame ∧ decode (.frame [0xFF#8]) = .error .unknownCommand ∧
      decode (.frame [0x10#8]) = .error .truncatedFrame ∧ decode (.frame [0x10#8, 0x01#8]) = .error .badCount ∧
      decode (.frame [0x50#8, 0x04#8, 0#8, 0#8, 0#8, 0#8, 0#8]) = .error .badCount ∧
      decode (.frame [0x50#8, 0x01#8, 0#8]) = .error .truncatedFrame ∧
      decode (.frame [0x00#8, 0x00#8]) = .error .trailingBytes := by decide

/-- The table's numbering: a host word whole, a device row by its first byte with operand bytes of zero. -/
theorem test_decodeTableWord :
    decodeTableWord 32 0x05000203 = some (.config 2#3 3#4) ∧ decodeTableWord 8 0xFC = some .sync ∧
      decodeTableWord 8 0x14 = some (.rregDev 4#4) ∧ decodeTableWord 8 0x5A = some (.wregDev 10#4 [0#8]) ∧
      decodeTableWord 8 0xFF = none := by decide

/-! ### WREG, RREG, CMD -/

/-- V-WREG-2: a write of MUX sets syncPending. -/
theorem test_wreg_mux :
    after (fun t => (seen t, t.trace, t.xferCount)) 0x02010023#32 (given [7#8, 8#8, 9#8] [] sIdle) =
      some ((some .ok, 0x0009#64, 8),
        [.csFall, .delay .pre, .xfer 0x51#8 7#8, .delay .pre, .xfer 0x00#8 8#8, .delay .pre, .xfer 0x23#8 9#8, .csRise],
        6#32) := by decide +kernel

/-- V-WREG-3, V-WREG-6 to V-WREG-8: the argument check precedes the state check. -/
theorem test_wreg_faults :
    after (fun t => (seen t, t.faultWord)) 0x020B0000#32 sIdle = some ((some .fault, 0x2201#64, 0), 0x020B0000#32) ∧
      after seen 0x02000006#32 sCont = some (some .fault, 0x2404#64, 0) ∧
      after seen 0x020B0000#32 s0 = some (some .fault, 0x2200#64, 0) ∧
      after seen 0x02000006#32 s0 = some (some .fault, 0x2400#64, 0) := by decide +kernel

/-- V-RREG-2: the third byte is kept, and nothing is checked. -/
theorem test_rreg :
    after (fun t => (t.lastByte, t.trace)) 0x03040000#32 (given [1#8, 2#8, 0xA5#8] [] sIdle) =
      some (0xA5#8, [.csFall, .delay .pre, .xfer 0x14#8 1#8, .delay .pre, .xfer 0x00#8 2#8, .delay .turn, .delay .pre,
        .xfer 0xFF#8 0xA5#8, .csRise]) := by decide +kernel

/-- V-RREG-3, V-RREG-5. -/
theorem test_rreg_faults :
    after seen 0x030F0000#32 sIdle = some (some .fault, 0x2201#64, 0) ∧
      after seen 0x03010000#32 sCont = some (some .fault, 0x2404#64, 0) := by decide +kernel

/-- V-CMD-1, V-CMD-2, V-CMD-9, V-CMD-11, V-CMD-15, V-CMD-16. -/
theorem test_cmd :
    after seen 0x04000003#32 (given [0#8] [] sReady) = some (some .ok, 0x0004#64, 4) ∧
      after seen 0x04000003#32 (given [0#8] [] sChsel) = some (some .fault, 0x240B#64, 0) ∧
      after seen 0x0400000F#32 (given [0#8] [] sCont) = some (some .ok, 0x0003#64, 4) ∧
      after seen 0x040000FE#32 (given [0#8] [] sCont) = some (some .ok, 0x0001#64, 4) ∧
      after seen 0x040000FC#32 (given [0#8] [] sChsel) = some (some .ok, 0x001B#64, 4) ∧
      after seen 0x04000000#32 (given [0#8] [] { sChsel with syncArmed := true }) = some (some .ok, 0x0003#64, 4) := by
  decide +kernel

/-- V-CMD-5 to V-CMD-7, V-CMD-13, V-CMD-14. -/
theorem test_cmd_faults :
    after seen 0x04000001#32 sIdle = some (some .fault, 0x2201#64, 0) ∧
      after seen 0x040000FF#32 sIdle = some (some .fault, 0x2201#64, 0) ∧
      after seen 0x04000052#32 sIdle = some (some .fault, 0x2201#64, 0) ∧
      after seen 0x04000000#32 s0 = some (some .fault, 0x2400#64, 0) ∧
      after seen 0x040000FC#32 sCont = some (some .fault, 0x2404#64, 0) := by decide +kernel

/-! ### INIT, CONFIG, SELCH, SYNCWAKE -/

/-- V-INIT-1, V-INIT-2: the expected identity, and another. -/
theorem test_init :
    after (fun t => (seen t, t.lastByte, t.lastPolls)) 0x01000000#32 (given [0#8, 0#8, 0x31#8] [false] s0) =
        some ((some .ok, 0x0001#64, 11), 0x31#8, 1#32) ∧
      after (fun t => (seen t, t.lastByte, t.xferCount)) 0x01000000#32 (given [0#8, 0#8, 0x21#8] [false] s0) =
        some ((some .fault, 0x2800#64, 11), 0x21#8, 3#32) := by decide +kernel

/-- V-INIT-3: the read happens after a timeout too. -/
theorem test_init_timeout :
    after (fun t => (seen t, t.timeoutCount, t.lastPolls)) 0x01000000#32
        (given [0#8, 0#8, 0x31#8] [true, true, true, true] { s0 with params := { testParams with waitBudget := 4#24 } }) =
      some ((some .timeout, 0x0021#64, 15), 1#32, 4#32) := by decide +kernel

/-- V-CFG-2: the burst's bytes, gain 64, rate 15. -/
theorem test_config :
    after (fun t => (cfgRegister t, t.trace)) 0x0500060F#32 (given [0#8, 0#8, 0#8, 0#8, 0#8, 0#8] [false] sIdle) =
      some (0x0F6#64,
        [.delay .settle, .poll false, .csFall, .delay .pre, .xfer 0x50#8 0#8, .delay .pre, .xfer 0x03#8 0#8, .delay .pre,
         .xfer 0x06#8 0#8, .delay .pre, .xfer 0x08#8 0#8, .delay .pre, .xfer 0x06#8 0#8, .delay .pre, .xfer 0x03#8 0#8,
         .csRise]) := by decide +kernel

/-- V-CFG-8, V-CFG-7, V-CFG-9: argument before state; reconfiguration returns to CONFIGURED with channel 0. -/
theorem test_config_states :
    after seen 0x0500070F#32 sCont = some (some .fault, 0x2204#64, 0) ∧
      after seen 0x05000000#32 sCont = some (some .fault, 0x2404#64, 0) ∧
      after (fun t => (cfgRegister t, t.pstate)) 0x05000203#32
        (given [0#8, 0#8, 0#8, 0#8, 0#8, 0#8] [false] sChsel) = some (0x032#64, .configured) := by decide +kernel

/-- V-SELCH-1, V-SELCH-2. -/
theorem test_selch :
    after (fun t => (cfgRegister t, t.trace, t.pstate)) 0x06000002#32 (given [0#8, 0#8, 0#8] [] sCfg) =
        some (0x200#64, [.csFall, .delay .pre, .xfer 0x51#8 0#8, .delay .pre, .xfer 0x00#8 0#8, .delay .pre,
          .xfer 0x28#8 0#8, .csRise], .chsel) ∧
      after cfgRegister 0x06000007#32 (given [0#8, 0#8, 0#8] [] sCfg) = some 0x700#64 := by decide +kernel

/-- V-SELCH-3, V-SELCH-5: channel 9 changes nothing; out of state it is ORDER. -/
theorem test_selch_nine :
    after (fun t => t) 0x06000009#32 sChsel = some { sChsel with resp := some .ok } ∧
      after seen 0x06000009#32 sIdle = some (some .fault, 0x2401#64, 0) := by decide +kernel

/-- V-SW-1. -/
theorem test_syncwake :
    after (fun t => (seen t, t.trace, t.xferCount)) 0x07000000#32 (given [0#8, 0#8] [] sChsel) =
      some ((some .ok, 0x0003#64, 10),
        [.csFall, .delay .pre, .xfer 0xFC#8 0#8, .csRise, .delay .syncGap, .csFall, .delay .pre, .xfer 0x00#8 0#8,
         .csRise, .delay .wakeGap], 14#32) := by decide +kernel

/-- V-SW-5, V-SW-6. -/
theorem test_syncwake_faults :
    after seen 0x07000000#32 s0 = some (some .fault, 0x2400#64, 0) ∧
      after seen 0x07000000#32 sCont = some (some .fault, 0x2404#64, 0) := by decide +kernel

/-! ### WAIT and RDSAMPLE -/

/-- V-WAIT-1, V-WAIT-3, V-WAIT-4. -/
theorem test_wait :
    after (fun t => (seen t, t.lastPolls, t.trace)) 0x08000003#32 (given [] [true, true, false] sIdle) =
        some ((some .ok, 0x0001#64, 4), 3#32, [.delay .settle, .poll true, .poll true, .poll false]) ∧
      after (fun t => (seen t, t.lastPolls, t.trace)) 0x08000002#32 (given [] [true, true] sIdle) =
        some ((some .timeout, 0x0021#64, 4), 2#32, [.delay .settle, .poll true, .poll true, .timeout]) := by
  decide +kernel

/-- V-WAIT-5, V-WAIT-6: the budget 0, in RESET, and the saturating count. -/
theorem test_wait_zero :
    after (fun t => (seen t, t.timeoutCount)) 0x08000000#32 s0 = some ((some .timeout, 0x0020#64, 2), 1#32) ∧
      after (fun t => t.timeoutCount) 0x08000000#32 { s0 with timeoutCount := 0xFFFFFFFF#32 } = some 0xFFFFFFFF#32 := by
  decide +kernel

/-- V-RD-1: −5517841, accumulated; −5517841.0 is 0xC1550C8440000000. -/
theorem test_rdsample_acc :
    after (fun t => (t.lastSample.toInt, t.stCount, t.stMean, t.stMin, t.stMax, t.xferCount)) 0x09000001#32
        (given [0xAB#8, 0xCD#8, 0xEF#8] [] sCont) =
      some (-5517841, 1#32, 0xC1550C8440000000#64, 0xFFABCDEF#32, 0xFFABCDEF#32, 18#32) := by decide +kernel

/-- V-RD-2, V-RD-5, V-RD-7, V-RD-8. -/
theorem test_rdsample :
    after (fun t => (t.lastSample.toInt, t.stCount)) 0x09000000#32 (given [0x80#8, 0#8, 0#8] [] sCont) =
        some (-8388608, 0#32) ∧
      after seen 0x09000000#32 sReady = some (some .fault, 0x2403#64, 0) ∧
      after seen 0x09000001#32 { sCont with stCount := 0xFFFFFFFF#32 } = some (some .fault, 0x3004#64, 0) ∧
      after (fun t => (t.resp, t.stCount)) 0x09000000#32
        (given [0#8, 0#8, 0#8] [] { sCont with stCount := 0xFFFFFFFF#32 }) = some (some .ok, 0xFFFFFFFF#32) := by
  decide +kernel

/-- W3: sign extension from bit 23. -/
theorem test_decode24 :
    (decode24 0x7F#8 0xFF#8 0xFF#8).toInt = 8388607 ∧ (decode24 0x80#8 0x00#8 0x00#8).toInt = -8388608 ∧
      (decode24 0xAB#8 0xCD#8 0xEF#8).toInt = -5517841 ∧ (decode24 0x12#8 0x34#8 0x56#8).toInt = 1193046 := by decide

/-! ### STCLR, STUPD, STFIN -/

/-- V-ST-17, its last update: on [0, 1, 0] the mean is one unit above 1/3 rounded. 0.5 and 0.5 are its mean and m2
after two samples. -/
theorem test_stupd :
    after (fun t => (t.stCount, t.stMean, t.stM2, t.stMin, t.stMax)) 0x0B000000#32
        { s0 with stCount := 2#32, stMean := 0x3FE0000000000000#64, stM2 := 0x3FE0000000000000#64, stMax := 1#32 } =
      some (3#32, 0x3FD5555555555556#64, 0x3FE5555555555556#64, 0#32, 1#32) := by decide +kernel

/-- V-ST-19. -/
theorem test_stupd_full :
    after (fun t => (seen t, t.stCount)) 0x0B000005#32 { s0 with stCount := 0xFFFFFFFF#32 } =
      some ((some .fault, 0x3000#64, 0), 0xFFFFFFFF#32) := by decide +kernel

/-- V-ST-9: the snapshot of [1193046, −5517841]. -/
theorem test_stfin :
    after (fun t => (t.finMean, t.finVar, t.finStdev, t.finP2P, t.finNonEmpty, t.finVarValid)) 0x0C000000#32
        { s0 with
          stCount := 2#32, stMean := 0xC1407F6EC0000000#64, stM2 := 0x42B47AE1851EB880#64, stMin := 0xFFABCDEF#32,
          stMax := 0x00123456#32 } =
      some (0xC1407F6EC0000000#64, 0x42B47AE1851EB880#64, 0x41521A186D268785#64, 6710887#32, true, true) := by
  decide +kernel

/-- V-ST-5: one sample has no variance. -/
theorem test_stfin_one :
    after (fun t => (t.finVar, t.finStdev, t.finNonEmpty, t.finVarValid)) 0x0C000000#32
        { s0 with stCount := 1#32, stMean := 0x4014000000000000#64, stMin := 5#32, stMax := 5#32 } =
      some (0x7FF8000000000000#64, 0x7FF8000000000000#64, true, false) := by decide +kernel

/-- V-ST-18: STCLR keeps the snapshot. -/
theorem test_stclr :
    after (fun t => (t.stCount, t.stMean, t.stMax, t.finCount)) 0x0A000000#32
        { s0 with stCount := 4#32, stMean := 0x4004000000000000#64, stMax := 4#32, finCount := 4#32 } =
      some (0#32, 0#64, 0#32, 4#32) := by decide +kernel

/-! ### Device commands, host interface, faults -/

/-- R102, R124: SYNC as a frame arms, WAKEUP clears, RESET returns to IDLE; RDATA is never sent (V-CMD-5). -/
theorem test_device_commands :
    afterFrame seen [0xFC#8] (given [0#8] [] sChsel) = some (some .ok, 0x001B#64, 4) ∧
      afterFrame seen [0x00#8] (given [0#8] [] { sChsel with syncArmed := true }) = some (some .ok, 0x0003#64, 4) ∧
      afterFrame seen [0xFE#8] (given [0#8] [] sCont) = some (some .ok, 0x0001#64, 4) ∧
      afterFrame (fun t => (seen t, t.faultWord)) [0x01#8] sIdle =
        some ((some .fault, 0x2201#64, 0), 0x04000001#32) := by decide +kernel

/-- R140, R35: a write of four registers from 0 on covers MUX, one from 7 on is in the map, one from 8 on is not. -/
theorem test_wregDev :
    afterFrame (fun t => (t.syncPending, t.xferCount)) [0x50#8, 0x03#8, 6#8, 8#8, 0#8, 0xF0#8]
        (given [0#8, 0#8, 0#8, 0#8, 0#8, 0#8] [] sIdle) = some (true, 9#32) ∧
      afterFrame (fun t => (t.resp, t.syncPending)) [0x57#8, 0x03#8, 0#8, 0#8, 0#8, 0#8]
        (given [0#8, 0#8, 0#8, 0#8, 0#8, 0#8] [] sIdle) = some (some .ok, false) ∧
      afterFrame seen [0x58#8, 0x03#8, 0#8, 0#8, 0#8, 0#8] sIdle = some (some .fault, 0x2201#64, 0) := by decide +kernel

/-- A byte sequence that is no command has no meaning. -/
theorem test_unknown_frame : step { sIdle with program := [.frame [0xFF#8]] } = .refused .unknownFrame := rfl

/-- V-F-1, V-F-4: an illegal word, and a halted engine. -/
theorem test_halt :
    after (fun t => (seen t, t.faultWord)) 0x00000000#32 s0 = some ((some .fault, 0x2100#64, 0), 0#32) ∧
      after (fun t => t) 0x01000000#32 { s0 with faults := 1#5 } =
        some { s0 with faults := 1#5, resp := some .halted } := by decide +kernel

/-- V-F-5: `rst` leaves the reset state. -/
theorem test_rst :
    step { sCont with program := [.rst], faults := 4#5, trace := [.csFall] } = .next { s0 with program := [] } := by
  rfl

/-- V-F-8: reads work while halted; indices past 19 read 0. -/
theorem test_reads :
    resultRegister { sChsel with faults := 4#5 } 0#5 = 0x240B#64 ∧ resultRegister sChsel 1#5 = 0x200#64 ∧
      resultRegister { s0 with finP2P := 7#32 } 18#5 = 7#64 ∧ resultRegister sCont 19#5 = 15#64 ∧
      resultRegister sCont 20#5 = 0#64 ∧ resultRegister sCont 31#5 = 0#64 := by decide

/-- The fetch: a table word placed as the host's next action is the first instruction to run after reset. -/
theorem test_withFetchWord :
    step (State.reset.withFetchWord 32 0x0C000000) = exec .stfin State.reset ∧
      step (State.reset.withFetchWord 8 0x5A) = exec (.wregDev 10#4 [0#8]) State.reset := ⟨rfl, rfl⟩

/-- With nothing presented the engine waits. -/
theorem test_idle_step : step s0 = .next s0 := rfl

/-! ### Binary64: rounding, ties, overflow, the smallest value -/

/-- 1/3 rounds to 0x3FD5555555555555 (V-ST-16); √2 to 0x3FF6A09E667F3BCD; 2^53 + 1 ties to even. -/
theorem test_binary64 :
    f64Div 0x3FF0000000000000#64 0x4008000000000000#64 = 0x3FD5555555555555#64 ∧
      f64Sqrt 0x4000000000000000#64 = 0x3FF6A09E667F3BCD#64 ∧
      f64OfInt 9007199254740993 = 0x4340000000000000#64 ∧ f64OfInt (-1) = 0xBFF0000000000000#64 ∧
      f64Sub 0x4008000000000000#64 0x4008000000000000#64 = 0#64 := by decide +kernel

/-- Past the largest finite value is infinity; half the smallest value ties to zero; 0/0 and √−1 are QNAN. -/
theorem test_binary64_edges :
    f64Mul 0x7FEFFFFFFFFFFFFF#64 0x4000000000000000#64 = 0x7FF0000000000000#64 ∧
      f64Mul 0x0000000000000001#64 0x3FE0000000000000#64 = 0#64 ∧ f64Div 0#64 0#64 = 0x7FF8000000000000#64 ∧
      f64Sqrt 0xBFF0000000000000#64 = 0x7FF8000000000000#64 ∧ f64Div 0x3FF0000000000000#64 0#64 = 0x7FF0000000000000#64 := by
  decide +kernel

/-! ### Assembler, oracle, clock -/

/-- W2's words, and R125: P1's text has 207 words. -/
theorem test_assemble :
    assemble (.line .stclr (.line (.stupd 0) (.line (.stupd 10) (.line .stfin .done)))) =
        [0x0A000000#32, 0x0B000000#32, 0x0B00000A#32, 0x0C000000#32] ∧
      assemble (.setup 1 7 2 .done) = [0x05000007#32, 0x06000002#32, 0x07000000#32, 0x04000003#32] ∧
      assemble (.acquire 2 1000 .done) = [0x080003E8#32, 0x09000001#32, 0x080003E8#32, 0x09000001#32] ∧
      assembleLine (.stupd (-1)) = some 0x0BFFFFFF#32 ∧ assembleLine (.config 3 0) = none ∧
      assembleLine (.wreg 16 0) = none ∧ assembleLine (.stupd 8388608) = none := by decide

/-- V-INIT-1's draws are the reference oracle's; another STATUS byte is not. -/
theorem test_oracle :
    (after (fun t => (oracleReplay oracleStart t.trace).isSome) 0x01000000#32 (given [0#8, 0#8, 0x31#8] [false] s0)) =
        some true ∧
      (after (fun t => (oracleReplay oracleStart t.trace).isSome) 0x01000000#32
        (given [0#8, 0#8, 0x32#8] [false] s0)) = some false := by decide +kernel

/-- R82: the delays of a WREG's trace, three times T_PRE. -/
theorem test_clock :
    after (fun t => traceTime t.params t.trace) 0x02020001#32 (given [0#8, 0#8, 0#8] [] sIdle) = some 6 := by
  decide +kernel

/-! ### Witnesses: values that meet each statement's hypotheses -/

/-- The state with one action as the host's program, and three zero MISO bytes. -/
def facing (a : HostAction) (s : State) : State := { s with program := [a], misoIn := [0#8, 0#8, 0#8] }

/-- A halted state. -/
def sHalted : State := { sChsel with faults := 4#5, faultWord := 0x04000003#32 }

/-- EveryInstructionDecodesBack, AcceptedPresentationIsTheEncoding. -/
theorem test_witness_encoding :
    (Instr.wregDev 10#4 [1#8, 2#8, 3#8, 4#8]).wellFormed = true ∧ (Instr.config 7#3 15#4).wellFormed = true ∧
      decode (.frame [0x5A#8, 0x00#8, 0xFF#8]) = .ok (.wregDev 10#4 [0xFF#8]) ∧
      decode (.word 0x0BFFFFFF#32) = .ok (.stupd 0xFFFFFF#24) ∧ decodeWord 0x02FF0000#32 = .error .reservedBits ∧
      decodeWord 0x020F00FF#32 = .ok (.wreg 15#4 0xFF#8) := by decide

/-- LegalWordsAreTheTableRows: words on both sides. -/
theorem test_witness_legal_words :
    legalWord 0x0500070F#32 = true ∧ legalWord 0x0500080F#32 = false ∧ legalWord 0x0C000000#32 = true ∧
      legalWord 0x0D000000#32 = false := by decide

/-- StepRunsThePresentedInstruction. -/
theorem test_witness_step_runs :
    (facing (.issue 0x03000000#32) sIdle).program = presentAction (.word 0x03000000#32) :: [] ∧
      decode (.word 0x03000000#32) = .ok (.rreg 0#4) ∧
      (facing (.frame [0xFC#8]) sIdle).program = presentAction (.frame [0xFC#8]) :: [] ∧
      decode (.frame [0xFC#8]) = .ok .sync := by decide

/-- IllegalWordTakesIllegalOp, halted and not. -/
theorem test_witness_illegal_word :
    (facing (.issue 0x00FFFFFF#32) s0).program = .issue 0x00FFFFFF#32 :: [] ∧ legalWord 0x00FFFFFF#32 = false ∧
      halted s0 = false ∧ halted sHalted = true := by decide

/-- HaltedEngineChangesNothing, OnlyResetLeavesHalt. -/
theorem test_witness_halted :
    halted (facing (.issue 0x0C000000#32) sHalted) = true ∧
      (facing (.issue 0x0C000000#32) sHalted).program = presentAction (.word 0x0C000000#32) :: [] ∧
      (∃ t, step (facing (.issue 0x0C000000#32) sHalted) = .next t) ∧
      ∀ rest, (facing (.issue 0x0C000000#32) sHalted).program ≠ .rst :: rest :=
  ⟨by decide, rfl, ⟨_, rfl⟩, nofun⟩

/-- ResetRestoresEveryField, HostReadsArePure. -/
theorem test_witness_host_actions :
    (facing .rst sHalted).program = .rst :: [] ∧ (facing (.read 19#5) sCont).program = .read 19#5 :: [] ∧
      (20 ≤ (20#5).toNat) ∧ ¬ 20 ≤ (19#5).toNat := by decide

/-- IllegalOperandTakesIllegalArg: the first illegal value of each operand. -/
theorem test_witness_illegal_operands :
    halted sIdle = false ∧ ¬ operandsLegal (.wreg 11#4 0#8) ∧ operandsLegal (.wreg 10#4 0#8) ∧
      ¬ operandsLegal (.rreg 11#4) ∧ ¬ operandsLegal (.rregDev 11#4) ∧
      ¬ operandsLegal (.wregDev 8#4 [0#8, 0#8, 0#8, 0#8]) ∧ operandsLegal (.wregDev 7#4 [0#8, 0#8, 0#8, 0#8]) ∧
      ¬ operandsLegal (.config 7#3 0#4) ∧ operandsLegal (.config 6#3 0#4) ∧ ¬ operandsLegal (.cmd 0x01#8) ∧
      ¬ operandsLegal .rdata ∧ operandsLegal (.cmd 0xFE#8) := by
  simp [operandsLegal, commandByte, legalCommands]
  decide

/-- IllegalOperandTakesIllegalArg, second part, and SelchSelectsTheChannel: channels 8 and 7. -/
theorem test_witness_selch :
    halted sCfg = false ∧ sCfg.pstate ∈ [.configured, .chsel] ∧ 7 < (8#4).toNat ∧ (7#4).toNat ≤ 7 := by decide

/-- DisallowedStateTakesOrder: a state out of the table, and the row Y* with a change pending. -/
theorem test_witness_disallowed :
    halted s0 = false ∧ operandsLegal (.wreg 0#4 6#8) ∧ ¬ allowed (.wreg 0#4 6#8) s0 ∧ halted sChsel = false ∧
      ¬ allowed .rdatac sChsel ∧ allowed .rdatac sReady ∧ operandsLegal .rdatac := by
  simp [operandsLegal, allowed, allowedStates, commandByte, commandStates, legalCommands, s0, sReady, sChsel, sCfg, sIdle,
    State.reset, halted]

/-- FullCountTakesCountOvf, both ops. -/
theorem test_witness_full_count :
    halted { sCont with stCount := 0xFFFFFFFF#32 } = false ∧
      allowed (.rdsample true) { sCont with stCount := 0xFFFFFFFF#32 } ∧
      countFull (.rdsample true) { sCont with stCount := 0xFFFFFFFF#32 } ∧
      allowed (.stupd 5#24) { s0 with stCount := 0xFFFFFFFF#32 } ∧
      countFull (.stupd 5#24) { s0 with stCount := 0xFFFFFFFF#32 } := by
  simp [allowed, allowedStates, commandByte, countFull, sCont, sReady, sChsel, sCfg, sIdle, s0, State.reset, halted]

/-- A state in which each instruction but RDATA passes its checks. -/
def proceedsIn : List (Instr × State) :=
  [(.init, s0), (.wreg 10#4 0#8, sIdle), (.rreg 10#4, sCfg), (.cmd 0x03#8, sReady), (.cmd 0x0F#8, sCont),
   (.config 6#3 15#4, sChsel), (.selch 7#4, sCfg), (.selch 8#4, sChsel), (.syncwake, sChsel), (.wait 0#24, s0),
   (.rdsample false, sCont), (.rdsample true, sCont), (.stclr, s0), (.stupd 0x800000#24, sCont), (.stfin, s0)] ++
  [(.wakeup, sChsel), (.rdatac, sReady), (.sdatac, sIdle), (.selfcal, sIdle), (.selfocal, sCfg), (.selfgcal, sChsel),
   (.sysocal, sIdle), (.sysgcal, sIdle), (.sync, sChsel), (.standby, sIdle), (.devReset, sCont), (.rregDev 0#4, sIdle),
   (.wregDev 7#4 [1#8, 2#8, 3#8, 4#8], sIdle)]

/-- OpsThatPassTheChecksComplete, BusEventsOfEveryOp, and the other statements about every op that proceeds. -/
theorem test_witness_proceeds : ∀ p ∈ proceedsIn, proceeds p.1 p.2 := by
  simp [proceedsIn, proceeds, Instr.wellFormed, burstLengthOk, operandsLegal, allowed, allowedStates, commandByte,
    commandStates, legalCommands, countFull, halted, sCont, sReady, sChsel, sCfg, sIdle, s0, State.reset]

/-- OpsThatPassTheChecksComplete, InitAcceptsTheIdentity, InitTakesIdentity, and the two cases of
TransitionsAreTheTable for INIT: the expected identity and another. -/
theorem test_witness_identity :
    halted s0 = false ∧ s0.pstate = .reset ∧
      (misoAt (given [0#8, 0#8, 0x3F#8] [] s0) 2).extractLsb' 4 4 = s0.params.expectedId ∧
      (misoAt (given [0#8, 0#8, 0x2F#8] [] s0) 2).extractLsb' 4 4 ≠ s0.params.expectedId := by decide

/-- RdataIsNeverSent, StfinTakesTheSnapshot, StclrClearsTheRunningFields. -/
theorem test_witness_not_halted : halted s0 = false ∧ halted sCont = false := by decide

/-- WregWritesOneRegister, WregDevWritesConsecutiveRegisters, RregReadsOneRegister: the last id of the map. -/
theorem test_witness_registers :
    halted sIdle = false ∧ (10#4).toNat ≤ 10 ∧ sIdle.pstate ∈ [.idle, .configured, .chsel] ∧
      1 ≤ [0#8, 0#8, 0#8, 0#8].length ∧ [0#8, 0#8, 0#8, 0#8].length ≤ 4 ∧
      (7#4).toNat + [0#8, 0#8, 0#8, 0#8].length - 1 ≤ 10 ∧
      Instr.rregDev 10#4 ∈ [Instr.rreg 10#4, Instr.rregDev 10#4] := by decide

/-- CommandEffects: each of the three rows of R37's table, at a state of it. -/
theorem test_witness_commands :
    commandByte .rdatac = some 0x03#8 ∧ 0x03#8 ∈ legalCommands ∧ halted sReady = false ∧ allowed .rdatac sReady ∧
      commandByte .sdatac = some 0x0F#8 ∧ allowed .sdatac sCont ∧ allowed (.cmd 0xFE#8) sCont ∧
      commandByte .sync = some 0xFC#8 ∧ allowed .sync sChsel ∧ allowed .wakeup sIdle := by
  simp [allowed, allowedStates, commandByte, commandStates, legalCommands, halted, sCont, sReady, sChsel, sCfg, sIdle,
    s0, State.reset]

/-- PseudoOpsExpand. -/
theorem test_witness_device_commands : (Instr.wakeup, 0x00#8) ∈ deviceCommands := by decide

/-- ConfigWritesFourRegisters, SyncwakeClearsPending. -/
theorem test_witness_config :
    halted sChsel = false ∧ (6#3).toNat ≤ 6 ∧ sChsel.pstate ∈ [.idle, .configured, .chsel] := by decide

/-- WaitEndsAtTheFirstLowPoll: ready at the first and at the last poll of the budget 2; not ready at all; budget 0. -/
theorem test_witness_wait :
    halted sIdle = false ∧ (0 < (2#24).toNat ∧ drdyAt (given [] [false] sIdle) 0 = false) ∧
      (1 < (2#24).toNat ∧ drdyAt (given [] [true, false] sIdle) 1 = false ∧
        ∀ k, k < 1 → drdyAt (given [] [true, false] sIdle) k = true) ∧
      (∀ k, k < (2#24).toNat → drdyAt (given [] [true, true] sIdle) k = true) ∧
      ∀ k, k < (0#24).toNat → drdyAt sIdle k = true := by decide

/-- RdsampleReadsThreeBytes, RdsampleAccAlsoAccumulates, StupdIsTheWelfordUpdate: the last count with room. -/
theorem test_witness_rdsample :
    halted sCont = false ∧ sCont.pstate = .cont ∧ { sCont with stCount := 0xFFFFFFFE#32 }.stCount ≠ 0xFFFFFFFF#32 ∧
      ∃ t, exec (.rdsample false) sCont = .next t := ⟨by decide, rfl, by decide, ⟨_, rfl⟩⟩

/-- SyncPendingFollowsMuxChanges, its third part. -/
theorem test_witness_pending : halted sChsel = false ∧ sChsel.syncPending = true := by decide

/-- AccumulatorWriters, FaultFieldsChangeOnlyOnEntry: an op that writes neither, and one that faults. -/
theorem test_witness_exec_next :
    (∃ t, exec .syncwake sChsel = .next t) ∧ (∃ t, exec .syncwake s0 = .next t) ∧
      (Instr.syncwake ≠ .stclr ∧ (∀ v, Instr.syncwake ≠ .stupd v) ∧ Instr.syncwake ≠ .rdsample true) ∧
      Instr.syncwake ≠ .stfin := ⟨⟨_, rfl⟩, ⟨_, rfl⟩, by simp, by simp⟩

/-- WriteRepliesAreIgnored. -/
theorem test_witness_replies :
    Instr.selch 1#4 ≠ .init ∧ (∀ id, Instr.selch 1#4 ≠ .rreg id) ∧ (∀ id, Instr.selch 1#4 ≠ .rregDev id) ∧
      (∀ a, Instr.selch 1#4 ≠ .rdsample a) ∧ ∃ t, exec (.selch 1#4) sCfg = .next t :=
  ⟨by simp, by simp, by simp, by simp, ⟨_, rfl⟩⟩

/-- TimeoutCountNeverFalls, EveryStepPollsBoundedly, ParametersAreFixed: a step that is no reset. -/
theorem test_witness_step_next :
    (∃ t, step (facing (.issue 0x08000000#32) s0) = .next t) ∧
      ∀ rest, (facing (.issue 0x08000000#32) s0).program ≠ .rst :: rest := ⟨⟨_, rfl⟩, nofun⟩

/-- ContinuousModeIsEnteredOnlySynced. -/
theorem test_witness_enter_continuous :
    sReady.pstate ≠ .cont ∧
      ∃ t, step (facing (.issue 0x04000003#32) sReady) = .next t ∧ t.pstate = .cont := ⟨by decide, ⟨_, rfl, rfl⟩⟩

/-- The five statements EveryStepKeeps… and AtMostOneFaultIsEverSet: a state off the run from reset that meets each
invariant, and takes a step. -/
theorem test_witness_invariants :
    let s := facing (.issue 0x07000000#32) { sChsel with xferCount := 0#32 }
    busInv s ∧ countersInv s ∧ protocolInv s ∧ faultInv s ∧ statsInv s ∧ ∃ t, step s = .next t := by
  refine ⟨?_, ?_, ?_, ?_, ?_, ⟨_, rfl⟩⟩ <;>
    simp [facing, busInv, busScan, countersInv, countXfers, countTimeouts, protocolInv, faultInv, statsInv, sampleRange,
      sChsel, sCfg, sIdle, s0, State.reset]

/-- SumProductQuotientAreNearest: finite operands with finite results, and a nonzero divisor. -/
theorem test_witness_arithmetic :
    f64IsFinite 0x3FF0000000000000#64 = true ∧ f64IsFinite 0xC008000000000000#64 = true ∧
      f64IsFinite (f64Add 0x3FF0000000000000#64 0xC008000000000000#64) = true ∧
      f64IsFinite (f64Mul 0x3FF0000000000000#64 0xC008000000000000#64) = true ∧
      f64Units 0xC008000000000000#64 ≠ 0 ∧
      f64IsFinite (f64Div 0x3FF0000000000000#64 0xC008000000000000#64) = true := by decide +kernel

/-- TiesGoToEven: half a unit lies between +0 and the smallest value, and rounds to +0. -/
theorem test_witness_tie :
    0 < 2 ∧ f64IsFinite (f64Round false 1 2) = true ∧ f64IsFinite 1#64 = true ∧
      f64Units 1#64 ≠ f64Units (f64Round false 1 2) ∧
      (f64Units 1#64 * 2 - exactUnits false 1).natAbs =
        (f64Units (f64Round false 1 2) * 2 - exactUnits false 1).natAbs := by decide +kernel

/-- IntegersConvertExactly, at its bound. -/
theorem test_witness_integers : Int.natAbs (-9007199254740992) ≤ 2 ^ 53 ∧ Int.natAbs 9007199254740992 ≤ 2 ^ 53 := by
  decide

/-- SquareRootIsNearest: the smallest positive value and the largest finite one; the smallest negative value, the
largest finite one and −∞ for its third part, which −0 does not meet. -/
theorem test_witness_root :
    f64IsFinite 1#64 = true ∧ 0 < f64Units 1#64 ∧ f64IsFinite 0x7FEFFFFFFFFFFFFF#64 = true ∧
      0 < f64Units 0x7FEFFFFFFFFFFFFF#64 ∧
      [0x8000000000000001#64, 0xFFEFFFFFFFFFFFFF#64, 0xFFF0000000000000#64].map
          (fun x => (f64IsNaN x, f64IsZero x, f64Sign x)) = List.replicate 3 (false, false, true) ∧
      f64IsZero 0x8000000000000000#64 = true := by decide +kernel

/-- FirstUpdateIsExact. -/
theorem test_witness_first : halted s0 = false ∧ s0.stCount = 0#32 ∧ s0.stMean = 0#64 ∧ s0.stM2 = 0#64 := by decide

/-- EqualSampleLeavesTheSpread: the mean 1.0 and the sample 1. -/
theorem test_witness_equal_sample :
    let s := { s0 with stCount := 2#32, stMean := 0x3FF0000000000000#64, stM2 := 0x3FE0000000000000#64 }
    halted s = false ∧ s.stCount ≠ 0xFFFFFFFF#32 ∧ s.stMean = f64OfInt (1#24).toInt ∧ f64IsNaN s.stM2 = false ∧
      s.stM2 ≠ 0x8000000000000000#64 ∧ ∃ t, exec (.stupd 1#24) s = .next t := by
  refine ⟨by decide +kernel, by decide +kernel, by decide +kernel, by decide +kernel, by decide +kernel, ⟨_, rfl⟩⟩

end Sys2Proof.Tests
end

section
/-! PROOFS. R21: no step changes a parameter. One lemma for each shared operation, one for the bodies of the ops, and
the case splits of Laws/Step.lean. -/

namespace Sys2Proof.Machine

@[simp] theorem transferred_params (n : Nat) (evs : List Event) (armed : Bool) (s : State) :
    (transferred n evs armed s).params = s.params := rfl

@[simp] theorem wregTx_params (id : BitVec 4) (data : List Byte) (s : State) :
    (wregTx id data s).params = s.params := by rw [wregTx_eq]; rfl

@[simp] theorem rregTx_params (id : BitVec 4) (s : State) : (rregTx id s).2.params = s.params := by
  rw [rregTx_eq]; rfl

@[simp] theorem commandEffect_params (c : Byte) (armed : Bool) (s : State) :
    (commandEffect c armed s).params = s.params := by
  unfold commandEffect
  split_ifs <;> simp

@[simp] theorem cmdTx_params (c : Byte) (s : State) : (cmdTx c s).params = s.params := by simp [cmdTx_eq]

@[simp] theorem sampleTx_params (s : State) : (sampleTx s).params = s.params := by simp [sampleTx_eq]

@[simp] theorem delay_params (k : DelayKind) (s : State) : (delay k s).params = s.params := rfl

@[simp] theorem readyWait_params (budget : BitVec 24) (s : State) : (readyWait budget s).2.params = s.params := by
  simp [readyWait_eq]

/-- R21, for the body of every op. -/
theorem body_params {s t : State} (h : Body s t) : t.params = s.params := by
  cases h with
  | wreg id data s => simp
  | rreg id s => simp
  | cmd c s => simp
  | init s => simp only [identify]; split <;> simp
  | config g r s => simp [configure]
  | selch ch s => unfold selectChannel; split <;> simp
  | syncwake s => simp [syncWake]
  | wait budget s => simp [waitOp]
  | rdsample acc s => cases acc <;> simp [readSample]
  | stclr s => simp
  | stupd v s => simp
  | stfin s => simp

/-- R21, for the three outcomes of an op. -/
theorem outcomes_params {w : Word} {s t : State} (h : Outcomes w s t) : t.params = s.params := by
  cases h with
  | halted _ => rfl
  | fault c _ => rfl
  | ran _ hb => exact body_params hb

/-- R21, for one host action: a reset and a read keep the parameters too. -/
theorem hostAction_params {a : HostAction} {s t : State} (h : hostAction a s = .next t) : t.params = s.params := by
  rcases hostAction_outcomes h with ⟨_, rfl⟩ | ⟨k, _, rfl⟩ | ⟨_, w, hw⟩
  · rfl
  · rfl
  · exact outcomes_params hw

end Sys2Proof.Machine

namespace Sys2Proof.Proofs
open Sys2Proof.Machine

/-- Settles O48: with no host action the state stays; with one, its outcomes keep the parameters. -/
theorem parametersAreFixed : Obligations.ParametersAreFixed := by
  intro s t h
  rcases step_outcomes h with ⟨_, rfl⟩ | ⟨a, rest, _, ha⟩
  · rfl
  · exact (hostAction_params ha :)

end Sys2Proof.Proofs
end

section
/-! PROOFS. Binary64 (R14, R230). The fields of a packed pattern; what roundHalfEven and f64Round compute; then, over
the reals, why a magnitude within half a unit in the last place is the nearest finite value (IsRounding). Sum, product,
quotient, conversion and root each come down to that one argument. -/

namespace Sys2Proof.Machine

/-! ### Patterns and their fields -/

theorem f64Frac_lt (x : F64) : f64Frac x < 2 ^ 52 := (x.extractLsb' 0 52).isLt

theorem f64Mant_lt (x : F64) : f64Mant x < 2 ^ 53 := by
  have := f64Frac_lt x
  unfold f64Mant
  split <;> omega

theorem f64Pack_toNat {low : Nat} (h : low < 2 ^ 63) (neg : Bool) :
    (f64Pack neg low).toNat = (if neg then 2 ^ 63 else 0) + low := by
  cases neg <;> simp [f64Pack] <;> omega

theorem f64Sign_pack {low : Nat} (h : low < 2 ^ 63) (neg : Bool) : f64Sign (f64Pack neg low) = neg := by
  rw [f64Sign, BitVec.getLsbD, f64Pack_toNat h, Nat.testBit_eq_decide_div_mod_eq]
  cases neg
  · simp; omega
  · simp; omega

theorem f64Exp_pack {low : Nat} (h : low < 2 ^ 63) (neg : Bool) : f64Exp (f64Pack neg low) = low / 2 ^ 52 := by
  rw [f64Exp, BitVec.extractLsb'_toNat, f64Pack_toNat h, Nat.shiftRight_eq_div_pow]
  cases neg
  · simp; omega
  · simp; omega

theorem f64Frac_pack {low : Nat} (h : low < 2 ^ 63) (neg : Bool) : f64Frac (f64Pack neg low) = low % 2 ^ 52 := by
  rw [f64Frac, BitVec.extractLsb'_toNat, f64Pack_toNat h, Nat.shiftRight_eq_div_pow]
  cases neg
  · simp
  · simp; omega

theorem f64IsFinite_pack {low : Nat} (h : low < 2 ^ 63) (neg : Bool) :
    f64IsFinite (f64Pack neg low) = true ↔ low < f64InfLow := by
  simp only [f64IsFinite, f64Exp_pack h, f64InfLow, bne_iff_ne]
  omega

/-- A unit exponent and a significand as f64Round forms them: the significand has 53 bits or is 2^53, and fewer bits
only at the smallest exponent. -/
def Significand (m sh : Nat) : Prop := m ≤ 2 ^ 53 ∧ (sh = 0 ∨ 2 ^ 52 ≤ m)

/-- Exponent field and significand add up, carries included (R230). -/
theorem f64Pack_of_significand {m sh : Nat} (hm : Significand m sh) (hlow : sh * 2 ^ 52 + m < f64InfLow) (neg : Bool) :
    f64Mag (f64Pack neg (sh * 2 ^ 52 + m)) = m * 2 ^ sh ∧
      f64Mant (f64Pack neg (sh * 2 ^ 52 + m)) % 2 = m % 2 := by
  obtain ⟨hle, hge⟩ := hm
  have h63 : sh * 2 ^ 52 + m < 2 ^ 63 := hlow.trans (by decide)
  have he := f64Exp_pack h63 neg
  have hf := f64Frac_pack h63 neg
  rcases lt_or_ge m (2 ^ 52) with hsub | hnormal
  · obtain rfl : sh = 0 := by omega
    have he' : f64Exp (f64Pack neg (0 * 2 ^ 52 + m)) = 0 := by omega
    have hf' : f64Frac (f64Pack neg (0 * 2 ^ 52 + m)) = m := by omega
    simp only [f64Mag, f64Mant, f64Scale, he', hf', if_true, Nat.zero_sub, and_self]
  · rcases hle.lt_or_eq with hlt | rfl
    · have he' : f64Exp (f64Pack neg (sh * 2 ^ 52 + m)) = sh + 1 := by omega
      have hf' : f64Frac (f64Pack neg (sh * 2 ^ 52 + m)) = m - 2 ^ 52 := by omega
      have hm' : m - 2 ^ 52 + 2 ^ 52 = m := by omega
      simp only [f64Mag, f64Mant, f64Scale, he', hf', Nat.add_sub_cancel, if_neg (Nat.succ_ne_zero sh), hm', and_self]
    · have he' : f64Exp (f64Pack neg (sh * 2 ^ 52 + 2 ^ 53)) = sh + 2 := by omega
      have hf' : f64Frac (f64Pack neg (sh * 2 ^ 52 + 2 ^ 53)) = 0 := by omega
      simp only [f64Mag, f64Mant, f64Scale, he', hf', if_neg (Nat.succ_ne_zero (sh + 1))]
      refine ⟨?_, by decide⟩
      rw [show sh + 2 - 1 = sh + 1 from rfl, pow_succ]
      ring

/-! ### What f64Round computes -/

theorem two_pow_f64UlpExp_le {q : Nat} (h : f64UlpExp q ≠ 0) : 2 ^ (52 + f64UlpExp q) ≤ q := by
  unfold f64UlpExp at *
  split at h
  · exact absurd rfl h
  · rename_i hq
    have h53 : 53 ≤ Nat.log2 q := (Nat.le_log2 (by omega)).2 (by omega)
    rw [if_neg hq, Nat.add_sub_cancel' (by omega)]
    exact Nat.log2_self_le (by omega)

theorem lt_two_pow_f64UlpExp (q : Nat) : q < 2 ^ (53 + f64UlpExp q) := by
  unfold f64UlpExp
  split
  · assumption
  · rename_i hq
    have h53 : 53 ≤ Nat.log2 q := (Nat.le_log2 (by omega)).2 (by omega)
    rw [show 53 + (q.log2 - 52) = q.log2 + 1 by omega]
    exact Nat.lt_log2_self

/-- A magnitude below 2^(53 + e) is rounded at the unit 2^e or at a finer one. -/
theorem f64UlpExp_le {q e : Nat} (h : q < 2 ^ (53 + e)) : f64UlpExp q ≤ e := by
  by_contra hlt
  have h1 := two_pow_f64UlpExp_le (q := q) (by omega)
  have h2 : 2 ^ (53 + e) ≤ 2 ^ (52 + f64UlpExp q) := Nat.pow_le_pow_right (by omega) (by omega)
  omega

theorem roundHalfEven_between (num den : Nat) :
    num / den ≤ roundHalfEven num den ∧ roundHalfEven num den ≤ num / den + 1 := by
  unfold roundHalfEven
  dsimp only
  split_ifs <;> simp

/-- Rounded to within one half. -/
theorem roundHalfEven_half (num : Nat) {den : Nat} (hden : 0 < den) :
    2 * num ≤ 2 * (roundHalfEven num den * den) + den ∧ 2 * (roundHalfEven num den * den) ≤ 2 * num + den := by
  have hdm := Nat.div_add_mod' num den
  have hr := Nat.mod_lt num hden
  have hsucc := Nat.add_one_mul (num / den) den
  unfold roundHalfEven
  dsimp only
  split_ifs <;> omega

/-- Exactly one half is rounded to even. -/
theorem roundHalfEven_even {num den : Nat} (hden : 0 < den)
    (htie : 2 * num = 2 * (roundHalfEven num den * den) + den ∨ 2 * (roundHalfEven num den * den) = 2 * num + den) :
    roundHalfEven num den % 2 = 0 := by
  have hdm := Nat.div_add_mod' num den
  have hr := Nat.mod_lt num hden
  have hsucc := Nat.add_one_mul (num / den) den
  unfold roundHalfEven at *
  dsimp only at *
  split_ifs at * <;> omega

/-- The unit exponent that f64Round gives `num / den`. -/
def roundUlp (num den : Nat) : Nat := f64UlpExp (num / den)

/-- The significand that f64Round gives `num / den`. -/
def roundSig (num den : Nat) : Nat := roundHalfEven num (den * 2 ^ roundUlp num den)

theorem f64Round_eq (neg : Bool) (num den : Nat) :
    f64Round neg num den = f64Pack neg (if roundUlp num den * 2 ^ 52 + roundSig num den < f64InfLow
      then roundUlp num den * 2 ^ 52 + roundSig num den else f64InfLow) := rfl

theorem roundSig_half (num : Nat) {den : Nat} (hden : 0 < den) :
    2 * num ≤ 2 * (roundSig num den * (den * 2 ^ roundUlp num den)) + den * 2 ^ roundUlp num den ∧
      2 * (roundSig num den * (den * 2 ^ roundUlp num den)) ≤ 2 * num + den * 2 ^ roundUlp num den :=
  roundHalfEven_half num (by positivity)

theorem roundSig_even {num den : Nat} (hden : 0 < den)
    (htie : 2 * num = 2 * (roundSig num den * (den * 2 ^ roundUlp num den)) + den * 2 ^ roundUlp num den ∨
      2 * (roundSig num den * (den * 2 ^ roundUlp num den)) = 2 * num + den * 2 ^ roundUlp num den) :
    roundSig num den % 2 = 0 :=
  roundHalfEven_even (den := den * 2 ^ roundUlp num den) (by positivity) htie

theorem two_pow_roundUlp_le {num den : Nat} (h : roundUlp num den ≠ 0) : 2 ^ (52 + roundUlp num den) ≤ num / den :=
  two_pow_f64UlpExp_le h

theorem significand_roundSig (num den : Nat) : Significand (roundSig num den) (roundUlp num den) := by
  have hb := roundHalfEven_between num (den * 2 ^ roundUlp num den)
  rw [← Nat.div_div_eq_div_mul] at hb
  have hlt : num / den / 2 ^ roundUlp num den < 2 ^ 53 :=
    Nat.div_lt_of_lt_mul (by rw [← pow_add, add_comm]; exact lt_two_pow_f64UlpExp _)
  refine ⟨hb.2.trans hlt, or_iff_not_imp_left.2 fun h0 => le_trans ?_ hb.1⟩
  rw [Nat.le_div_iff_mul_le (by positivity), ← pow_add]
  exact two_pow_f64UlpExp_le h0

theorem f64IsFinite_round_iff (neg : Bool) (num den : Nat) :
    f64IsFinite (f64Round neg num den) = true ↔ roundUlp num den * 2 ^ 52 + roundSig num den < f64InfLow := by
  rw [f64Round_eq]
  split
  · rename_i h
    exact f64IsFinite_pack (h.trans (by decide)) neg
  · rename_i h
    rw [f64IsFinite_pack (by decide) neg]
    exact iff_of_false (lt_irrefl _) h

section
variable {neg : Bool} {num den : Nat} (hfin : f64IsFinite (f64Round neg num den) = true)
include hfin

theorem f64Round_eq_pack : f64Round neg num den = f64Pack neg (roundUlp num den * 2 ^ 52 + roundSig num den) := by
  rw [f64Round_eq, if_pos ((f64IsFinite_round_iff neg num den).1 hfin)]

theorem f64Sign_round : f64Sign (f64Round neg num den) = neg := by
  have hlow := (f64IsFinite_round_iff neg num den).1 hfin
  rw [f64Round_eq_pack hfin, f64Sign_pack (hlow.trans (by decide))]

theorem f64Mag_round : f64Mag (f64Round neg num den) = roundSig num den * 2 ^ roundUlp num den := by
  rw [f64Round_eq_pack hfin]
  exact (f64Pack_of_significand (significand_roundSig num den) ((f64IsFinite_round_iff neg num den).1 hfin) neg).1

theorem f64Mant_round_mod_two : f64Mant (f64Round neg num den) % 2 = roundSig num den % 2 := by
  rw [f64Round_eq_pack hfin]
  exact (f64Pack_of_significand (significand_roundSig num den) ((f64IsFinite_round_iff neg num den).1 hfin) neg).2

end

/-! ### Why the rounded magnitude is the nearest one -/

/-- `m · 2^sh` lies within half a unit 2^sh of X, and a unit above the smallest is used only where X has 53 bits. -/
structure IsRounding (m sh : Nat) (X : ℝ) : Prop where
  half : |(m : ℝ) * 2 ^ sh - X| ≤ 2 ^ sh / 2
  unit : sh = 0 ∨ (2 : ℝ) ^ (52 + sh) ≤ X

/-- A finite magnitude is a multiple of the unit 2^sh, or too small for that unit. -/
theorem f64Mag_multiple_or_small (z : F64) (sh : Nat) :
    (∃ k, f64Mag z = k * 2 ^ sh) ∨ (sh ≠ 0 ∧ f64Mag z < 2 ^ (52 + sh)) := by
  rcases le_or_gt sh (f64Scale z) with h | h
  · refine .inl ⟨f64Mant z * 2 ^ (f64Scale z - sh), ?_⟩
    rw [f64Mag, mul_assoc, ← pow_add, Nat.sub_add_cancel h]
  · refine .inr ⟨by omega, ?_⟩
    calc f64Mag z < 2 ^ 53 * 2 ^ f64Scale z := Nat.mul_lt_mul_of_pos_right (f64Mant_lt z) (by positivity)
      _ = 2 ^ (53 + f64Scale z) := (pow_add 2 53 _).symm
      _ ≤ 2 ^ (52 + sh) := Nat.pow_le_pow_right (by omega) (by omega)

/-- Two multiples of the unit are at least one unit apart. -/
theorem two_pow_le_of_ne {m k : Nat} (sh : Nat) (X : ℝ) (hk : k ≠ m) :
    (2 : ℝ) ^ sh ≤ |(m : ℝ) * 2 ^ sh - X| + |(k : ℝ) * 2 ^ sh - X| := by
  have h1 : (1 : ℝ) ≤ |(m : ℝ) - k| := by
    have hz : (m : ℤ) - k ≠ 0 := by omega
    exact_mod_cast Int.one_le_abs hz
  calc (2 : ℝ) ^ sh ≤ |(m : ℝ) - k| * |(2 : ℝ) ^ sh| := by
        rw [abs_of_pos (by positivity : (0 : ℝ) < 2 ^ sh)]
        exact le_mul_of_one_le_left (by positivity) h1
    _ = |((m : ℝ) * 2 ^ sh - X) - ((k : ℝ) * 2 ^ sh - X)| := by rw [← abs_mul]; congr 1; ring
    _ ≤ _ := abs_sub _ _

namespace IsRounding

variable {m sh : Nat} {X : ℝ} (h : IsRounding m sh X)
include h

/-- No multiple of the unit is nearer. -/
theorem le_multiple (k : Nat) : |(m : ℝ) * 2 ^ sh - X| ≤ |(k : ℝ) * 2 ^ sh - X| := by
  rcases eq_or_ne k m with rfl | hk
  · exact le_rfl
  · linarith [h.half, two_pow_le_of_ne sh X hk]

/-- A finite value that is no multiple of the unit is farther off than 2^52 units, the smallest magnitude with that
unit. -/
theorem lt_small {a : ℝ} (hsh : sh ≠ 0) (ha : a < 2 ^ (52 + sh)) : |(m : ℝ) * 2 ^ sh - X| < |a - X| := by
  have hX := h.unit.resolve_left hsh
  have h52 := h.le_multiple (2 ^ 52)
  rw [Nat.cast_pow, Nat.cast_ofNat, ← pow_add, abs_sub_comm (2 ^ (52 + sh)) X, abs_of_nonneg (sub_nonneg.2 hX)] at h52
  rw [abs_sub_comm a, abs_of_pos (by linarith : 0 < X - a)]
  linarith

/-- No finite magnitude is nearer. -/
theorem le_f64Mag (z : F64) : |(m : ℝ) * 2 ^ sh - X| ≤ |(f64Mag z : ℝ) - X| := by
  rcases f64Mag_multiple_or_small z sh with ⟨k, hk⟩ | ⟨hsh, hz⟩
  · rw [hk]
    exact_mod_cast h.le_multiple k
  · exact (h.lt_small hsh (by exact_mod_cast hz)).le

/-- Another finite magnitude can be as near only where X lies halfway between two multiples of the unit. -/
theorem half_of_mag_tie {z : F64} (hne : f64Mag z ≠ m * 2 ^ sh)
    (htie : |(f64Mag z : ℝ) - X| = |(m : ℝ) * 2 ^ sh - X|) :
    |(m : ℝ) * 2 ^ sh - X| = 2 ^ sh / 2 := by
  rcases f64Mag_multiple_or_small z sh with ⟨k, hk⟩ | ⟨hsh, hz⟩
  · have hkm : k ≠ m := fun e => hne (e ▸ hk)
    have hu := two_pow_le_of_ne sh X hkm
    rw [hk] at htie
    push_cast at htie
    linarith [h.half]
  · exact absurd htie (h.lt_small hsh (by exact_mod_cast hz)).ne'

end IsRounding

theorem isRounding_roundSig (num : Nat) {den : Nat} (hden : 0 < den) :
    IsRounding (roundSig num den) (roundUlp num den) (num / den) := by
  have hd : (0 : ℝ) < den := by exact_mod_cast hden
  constructor
  · obtain ⟨h1, h2⟩ := roundSig_half num hden
    rify at h1 h2
    rw [abs_sub_le_iff]
    constructor
    · rw [sub_le_comm, le_div_iff₀ hd]; linarith
    · rw [sub_le_iff_le_add, div_le_iff₀ hd]; linarith
  · refine or_iff_not_imp_left.2 fun h0 => ?_
    calc (2 : ℝ) ^ (52 + roundUlp num den) ≤ ((num / den : ℕ) : ℝ) := by exact_mod_cast two_pow_roundUlp_le h0
      _ ≤ num / den := Nat.cast_div_le

/-- Halfway between two multiples of the unit, the even significand is taken. -/
theorem roundSig_even_of_half {num den : Nat} (hden : 0 < den)
    (h : |(roundSig num den : ℝ) * 2 ^ roundUlp num den - num / den| = 2 ^ roundUlp num den / 2) :
    roundSig num den % 2 = 0 := by
  have hd : (den : ℝ) ≠ 0 := by exact_mod_cast hden.ne'
  refine roundSig_even hden ?_
  rify
  rcases eq_or_eq_neg_of_abs_eq h with h | h
  · right; field_simp at h; linarith
  · left; field_simp at h; linarith

/-! ### Signs -/

/-- A real of the given sign and magnitude. -/
def signed (neg : Bool) (X : ℝ) : ℝ := if neg then -X else X

theorem abs_f64Units (x : F64) : |(f64Units x : ℝ)| = f64Mag x := by
  unfold f64Units
  split <;> simp

theorem abs_f64Units_sub_signed {x : F64} {neg : Bool} (h : f64Sign x = neg) (X : ℝ) :
    |(f64Units x : ℝ) - signed neg X| = |(f64Mag x : ℝ) - X| := by
  subst h
  unfold f64Units signed
  cases f64Sign x
  · simp
  · simp only [if_true, Int.cast_neg, Int.cast_natCast]
    rw [← abs_neg]; congr 1; ring

theorem abs_f64Mag_sub_le (z : F64) (neg : Bool) {X : ℝ} (hX : 0 ≤ X) :
    |(f64Mag z : ℝ) - X| ≤ |(f64Units z : ℝ) - signed neg X| := by
  have h : |signed neg X| = X := by cases neg <;> simp [signed, abs_of_nonneg hX]
  calc |(f64Mag z : ℝ) - X| = |(|(f64Units z : ℝ)| - |signed neg X|)| := by rw [abs_f64Units, h]
    _ ≤ _ := abs_abs_sub_abs_le_abs_sub _ _

/-- A value of the right sign whose magnitude is a rounding of X is nearest to the signed X. -/
theorem IsRounding.le_f64Units {m sh : Nat} {X : ℝ} (h : IsRounding m sh X) (hX : 0 ≤ X) {x : F64} {neg : Bool}
    (hsign : f64Sign x = neg) (hmag : f64Mag x = m * 2 ^ sh) (z : F64) :
    |(f64Units x : ℝ) - signed neg X| ≤ |(f64Units z : ℝ) - signed neg X| := by
  rw [abs_f64Units_sub_signed hsign, hmag]
  push_cast
  exact (h.le_f64Mag z).trans (abs_f64Mag_sub_le z neg hX)

/-- A distance in the statements' integers is den times the real one. -/
theorem natAbs_sub_exactUnits (u : ℤ) (neg : Bool) (num : Nat) {den : Nat} (hden : 0 < den) :
    ((u * den - exactUnits neg num).natAbs : ℝ) = den * |(u : ℝ) - signed neg (num / den)| := by
  have hd : (0 : ℝ) < den := by exact_mod_cast hden
  rw [Nat.cast_natAbs, Int.cast_abs, ← abs_of_pos hd, ← abs_mul, abs_of_pos hd]
  congr 1
  cases neg <;> simp [exactUnits, signed] <;> field_simp

/-! ### f64Round is nearest, with ties to even -/

theorem nearest_f64Round {neg : Bool} {num den : Nat} (hden : 0 < den)
    (hfin : f64IsFinite (f64Round neg num den) = true) :
    nearest (f64Round neg num den) (exactUnits neg num) den := by
  refine ⟨hfin, fun z _ => ?_⟩
  rw [← Nat.cast_le (α := ℝ), natAbs_sub_exactUnits _ _ _ hden, natAbs_sub_exactUnits _ _ _ hden]
  exact mul_le_mul_of_nonneg_left ((isRounding_roundSig num hden).le_f64Units (by positivity) (f64Sign_round hfin)
    (f64Mag_round hfin) z) (by positivity)

theorem abs_f64Units_sub_signed_of_ne {x : F64} {neg : Bool} (h : f64Sign x ≠ neg) {X : ℝ} (hX : 0 ≤ X) :
    |(f64Units x : ℝ) - signed neg X| = f64Mag x + X := by
  obtain rfl := Bool.eq_not.2 h.symm
  unfold f64Units signed
  cases f64Sign x
  · simp only [Bool.not_false, if_true, Bool.false_eq_true, if_false, Int.cast_natCast, sub_neg_eq_add]
    exact abs_of_nonneg (by positivity)
  · simp only [Bool.not_true, if_true, Bool.false_eq_true, if_false, Int.cast_neg, Int.cast_natCast]
    rw [abs_sub_comm, sub_neg_eq_add, abs_of_nonneg (by positivity), add_comm]

theorem f64Units_inj {x y : F64} (hsign : f64Sign x = f64Sign y) (hmag : f64Mag x = f64Mag y) :
    f64Units x = f64Units y := by
  unfold f64Units
  rw [hsign, hmag]

theorem f64Units_of_mag_zero {x : F64} (h : f64Mag x = 0) : f64Units x = 0 := by simp [f64Units, h]

namespace IsRounding

variable {m sh : Nat} {X : ℝ} (hr : IsRounding m sh X) (hX : 0 ≤ X) {x z : F64} {neg : Bool}
  (hsign : f64Sign x = neg) (hmag : f64Mag x = m * 2 ^ sh) (hne : f64Units z ≠ f64Units x)
  (htie : |(f64Units z : ℝ) - signed neg X| = |(f64Units x : ℝ) - signed neg X|)
include hr hX hsign hmag hne htie

/-- The rounded value negated is no nearer, unless both are zero: it lies on the other side of zero. -/
theorem f64Mag_ne_of_tie : f64Mag z ≠ f64Mag x := by
  intro hm
  have hz : f64Sign z ≠ neg := fun e => hne (f64Units_inj (e.trans hsign.symm) hm)
  have h0 := hr.le_multiple 0
  rw [abs_f64Units_sub_signed_of_ne hz hX, hm, abs_f64Units_sub_signed hsign, hmag] at htie
  simp only [Nat.cast_zero, zero_mul, zero_sub, abs_neg, abs_of_nonneg hX] at h0
  push_cast at htie
  have hx0 : f64Mag x = 0 := by
    rw [hmag]
    exact_mod_cast le_antisymm (by linarith : (m : ℝ) * 2 ^ sh ≤ 0) (by positivity)
  exact hne (by rw [f64Units_of_mag_zero hx0, f64Units_of_mag_zero (hm.trans hx0)])

/-- Another finite value can be as near only where X lies halfway between two multiples of the unit. -/
theorem half_of_tie : |(m : ℝ) * 2 ^ sh - X| = 2 ^ sh / 2 := by
  have hm := hr.f64Mag_ne_of_tie hX hsign hmag hne htie
  have hz := abs_f64Mag_sub_le z neg hX
  rw [htie, abs_f64Units_sub_signed hsign, hmag] at hz
  push_cast at hz
  exact hr.half_of_mag_tie (hmag ▸ hm) (le_antisymm hz (hr.le_f64Mag z))

end IsRounding

/-- R14: a tie goes to the even significand. -/
theorem f64Mant_round_even_of_tie {neg : Bool} {num den : Nat} {z : F64} (hden : 0 < den)
    (hfin : f64IsFinite (f64Round neg num den) = true) (hne : f64Units z ≠ f64Units (f64Round neg num den))
    (htie : (f64Units z * den - exactUnits neg num).natAbs =
      (f64Units (f64Round neg num den) * den - exactUnits neg num).natAbs) :
    f64Mant (f64Round neg num den) % 2 = 0 := by
  have hd : (den : ℝ) ≠ 0 := by exact_mod_cast hden.ne'
  rw [← Nat.cast_inj (R := ℝ), natAbs_sub_exactUnits _ _ _ hden, natAbs_sub_exactUnits _ _ _ hden,
    mul_right_inj' hd] at htie
  rw [f64Mant_round_mod_two hfin]
  exact roundSig_even_of_half hden ((isRounding_roundSig num hden).half_of_tie (by positivity) (f64Sign_round hfin)
    (f64Mag_round hfin) hne htie)

/-! ### Sum, product and quotient -/

theorem f64Units_eq_exactUnits (x : F64) : f64Units x = exactUnits (f64Sign x) (f64Mag x) := rfl

theorem f64One_eq : f64One = 2 ^ 1074 := by rw [f64One]

theorem f64One_cast {R : Type} [Semiring R] : (f64One : R) = 2 ^ 1074 := by rw [f64One, Nat.cast_pow, Nat.cast_ofNat]

theorem natAbs_f64Units (x : F64) : (f64Units x).natAbs = f64Mag x := by
  unfold f64Units
  split <;> simp

theorem exactUnits_natAbs (z : ℤ) : exactUnits (decide (z < 0)) z.natAbs = z := by
  rcases lt_or_ge z 0 with h | h
  · simp [exactUnits, h, abs_of_neg]
  · simp [exactUnits, h, abs_of_nonneg, h.not_gt]

theorem exactUnits_mul (a b : Bool) (m n : Nat) : exactUnits (a != b) (m * n) = exactUnits a m * exactUnits b n := by
  cases a <;> cases b <;> simp [exactUnits]

theorem exactUnits_mul_natCast (a : Bool) (m n : Nat) : exactUnits a (m * n) = exactUnits a m * n := by
  cases a <;> simp [exactUnits]

theorem f64IsNaN_of_finite {x : F64} (h : f64IsFinite x = true) : f64IsNaN x = false := by
  simp_all [f64IsFinite, f64IsNaN]

theorem f64IsInf_of_finite {x : F64} (h : f64IsFinite x = true) : f64IsInf x = false := by
  simp_all [f64IsFinite, f64IsInf]

/-- Only ±0 has no units. -/
theorem f64IsZero_eq_false {x : F64} (h : f64Units x ≠ 0) : f64IsZero x = false := by
  rw [← Int.natAbs_ne_zero, natAbs_f64Units] at h
  by_contra hz
  simp [f64IsZero] at hz
  simp [f64Mag, f64Mant, hz] at h

theorem f64Units_pack_zero (neg : Bool) : f64Units (f64Pack neg 0) = 0 := by cases neg <;> decide

section
variable {x y : F64} (hx : f64IsFinite x = true) (hy : f64IsFinite y = true)
include hx hy

theorem f64Add_of_finite : f64Add x y =
    if f64Units x + f64Units y = 0 then f64Pack (f64Sign x && f64Sign y && f64IsZero x && f64IsZero y) 0
    else f64Round (decide (f64Units x + f64Units y < 0)) (f64Units x + f64Units y).natAbs 1 := by
  simp [f64Add, f64IsNaN_of_finite, f64IsInf_of_finite, hx, hy]

theorem f64Mul_of_finite : f64Mul x y = f64Round (f64Sign x != f64Sign y) (f64Mag x * f64Mag y) f64One := by
  simp [f64Mul, f64IsNaN_of_finite, f64IsInf_of_finite, hx, hy]

theorem f64Div_of_finite (h0 : f64Units y ≠ 0) :
    f64Div x y = f64Round (f64Sign x != f64Sign y) (f64Mag x * f64One) (f64Mag y) := by
  simp [f64Div, f64IsNaN_of_finite, f64IsInf_of_finite, f64IsZero_eq_false, hx, hy, h0]

theorem nearest_f64Add (h : f64IsFinite (f64Add x y) = true) :
    nearest (f64Add x y) (f64Units x + f64Units y) 1 := by
  by_cases h0 : f64Units x + f64Units y = 0
  · refine ⟨h, fun z _ => ?_⟩
    rw [f64Add_of_finite hx hy, if_pos h0, f64Units_pack_zero, h0]
    exact Nat.zero_le _
  · rw [f64Add_of_finite hx hy, if_neg h0] at *
    have hn := nearest_f64Round one_pos h
    rwa [exactUnits_natAbs] at hn

theorem nearest_f64Mul (h : f64IsFinite (f64Mul x y) = true) :
    nearest (f64Mul x y) (f64Units x * f64Units y) (2 ^ 1074) := by
  rw [f64Mul_of_finite hx hy, f64One_eq] at *
  have hn := nearest_f64Round (by positivity) h
  rwa [exactUnits_mul] at hn

theorem nearest_f64Div (h0 : f64Units y ≠ 0) (h : f64IsFinite (f64Div x y) = true) :
    nearest (f64Div x y) (f64Units x * 2 ^ 1074 * (f64Units y).sign) (f64Units y).natAbs := by
  have hpos : 0 < f64Mag y := by rw [← natAbs_f64Units]; exact Int.natAbs_pos.2 h0
  have hsign : (f64Units y).sign = exactUnits (f64Sign y) 1 := by
    rw [f64Units_eq_exactUnits]
    cases f64Sign y <;> simp [exactUnits, hpos.ne', Int.sign_natCast_of_ne_zero]
  have hq : exactUnits (f64Sign x != f64Sign y) (f64Mag x * f64One) = f64Units x * 2 ^ 1074 * (f64Units y).sign := by
    rw [hsign, f64Units_eq_exactUnits x, ← f64One_cast, ← exactUnits_mul_natCast, ← exactUnits_mul, mul_one]
  rw [f64Div_of_finite hx hy h0] at *
  rw [natAbs_f64Units, ← hq]
  exact nearest_f64Round hpos h

end

/-! ### Conversion -/

/-- Division without a remainder is not rounded. -/
theorem roundHalfEven_mul_of_dvd {num den : Nat} (hden : 0 < den) (h : den ∣ num) :
    roundHalfEven num den * den = num := by
  simp [roundHalfEven, Nat.mod_eq_zero_of_dvd h, hden, Nat.div_mul_cancel h]

/-- A magnitude of at most 53 significant bits, in range, is what f64Round answers. -/
theorem f64Round_exact (neg : Bool) {m e : Nat} (hm : m < 2 ^ 53) (he : e < 2045) :
    f64IsFinite (f64Round neg (m * 2 ^ e) 1) = true ∧
      f64Units (f64Round neg (m * 2 ^ e) 1) = exactUnits neg (m * 2 ^ e) := by
  have hlt : m * 2 ^ e < 2 ^ (53 + e) := by rw [pow_add]; exact Nat.mul_lt_mul_of_pos_right hm (by positivity)
  have hulp : roundUlp (m * 2 ^ e) 1 ≤ e := by
    rw [roundUlp, Nat.div_one]
    exact f64UlpExp_le hlt
  have hfin : f64IsFinite (f64Round neg (m * 2 ^ e) 1) = true := by
    have hle := (significand_roundSig (m * 2 ^ e) 1).1
    rw [f64IsFinite_round_iff, f64InfLow]
    omega
  have hmag : f64Mag (f64Round neg (m * 2 ^ e) 1) = m * 2 ^ e := by
    rw [f64Mag_round hfin, roundSig, one_mul]
    exact roundHalfEven_mul_of_dvd (by positivity) ((pow_dvd_pow 2 hulp).mul_left m)
  exact ⟨hfin, by rw [f64Units_eq_exactUnits, f64Sign_round hfin, hmag]⟩

/-- R14: `toF64` of m·2^k, for k = 0 and k = 1. -/
theorem f64OfInt_exact {i : ℤ} {m k : Nat} (hi : i.natAbs = m * 2 ^ k) (hm : m < 2 ^ 53) (hk : k ≤ 1) :
    f64IsFinite (f64OfInt i) = true ∧ f64Units (f64OfInt i) = i * 2 ^ 1074 := by
  have hnum : i.natAbs * f64One = m * 2 ^ (k + 1074) := by rw [hi, f64One, pow_add, mul_assoc]
  obtain ⟨hfin, hunits⟩ := f64Round_exact (decide (i < 0)) (e := k + 1074) hm (by omega)
  rw [← hnum, exactUnits_mul_natCast, exactUnits_natAbs, f64One_cast] at hunits
  rw [← hnum] at hfin
  exact ⟨hfin, hunits⟩

/-! ### Square root -/

theorem sqrtBits_spec (n k r : Nat) (hlo : r * r ≤ n) (hhi : n < (r + 2 ^ k) * (r + 2 ^ k)) :
    sqrtBits k n r * sqrtBits k n r ≤ n ∧ n < (sqrtBits k n r + 1) * (sqrtBits k n r + 1) := by
  induction k generalizing r with
  | zero => exact ⟨hlo, hhi⟩
  | succ k ih =>
    rw [sqrtBits]
    split
    · rename_i h
      exact ih _ h (by rwa [pow_succ, mul_two, ← add_assoc] at hhi)
    · rename_i h
      exact ih _ hlo (not_le.1 h)

/-- The bit search finds the integer square root. -/
theorem natSqrt_eq (n : Nat) : natSqrt n = Nat.sqrt n := by
  refine Nat.eq_sqrt.2 (sqrtBits_spec n _ 0 (by simp) ?_)
  calc n < 2 ^ (n.log2 + 1) := Nat.lt_log2_self
    _ ≤ 2 ^ ((n.log2 / 2 + 1) + (n.log2 / 2 + 1)) := Nat.pow_le_pow_right (by omega) (by omega)
    _ = _ := by rw [pow_add, zero_add]

/-- The integer root with one bit more, which says whether it is the whole root. -/
def stickyRoot (n : Nat) : Nat := 2 * Nat.sqrt n + if Nat.sqrt n * Nat.sqrt n = n then 0 else 1

/-- The extra bit is enough: against an even bound the sticky root compares as twice the real root does. -/
theorem le_sqrt_of_le_stickyRoot {n : Nat} {t : ℤ} (h : 2 * t ≤ stickyRoot n) : (t : ℝ) ≤ √n := by
  have ht : t ≤ Nat.sqrt n := by unfold stickyRoot at h; split at h <;> omega
  calc (t : ℝ) ≤ (Nat.sqrt n : ℝ) := by exact_mod_cast ht
    _ ≤ √n := Real.nat_sqrt_le_real_sqrt

theorem sqrt_le_of_stickyRoot_le {n : Nat} {t : ℤ} (h : stickyRoot n ≤ 2 * t) : √n ≤ (t : ℝ) := by
  unfold stickyRoot at h
  split at h
  · rename_i hn
    have ht : (Nat.sqrt n : ℤ) ≤ t := by omega
    calc √n = Nat.sqrt n := by conv_lhs => rw [← hn, Nat.cast_mul, Real.sqrt_mul_self (by positivity)]
      _ ≤ (t : ℝ) := by exact_mod_cast ht
  · have ht : (Nat.sqrt n : ℤ) + 1 ≤ t := by omega
    calc √n ≤ Nat.sqrt n + 1 := Real.real_sqrt_le_nat_sqrt_succ
      _ ≤ (t : ℝ) := by exact_mod_cast ht

theorem stickyRoot_lt {n k : Nat} (h : n < 2 ^ (2 * k)) : stickyRoot n < 2 ^ (k + 1) := by
  have hr : Nat.sqrt n < 2 ^ k := Nat.sqrt_lt'.2 (by rwa [← pow_mul, mul_comm])
  rw [pow_succ]
  unfold stickyRoot
  split <;> omega

theorem two_pow_le_stickyRoot {n k : Nat} (h : 2 ^ (2 * k) ≤ n) : 2 ^ (k + 1) ≤ stickyRoot n := by
  have hr : 2 ^ k ≤ Nat.sqrt n := Nat.le_sqrt'.2 (by rwa [← pow_mul, mul_comm])
  rw [pow_succ]
  unfold stickyRoot
  omega

/-- The bounds of a rounding are even multiples of 2^j, so that a rounding of the sticky root is one of the
real root. -/
theorem isRounding_sqrt_of_stickyRoot {n m c : Nat} (j : Nat) (hup : stickyRoot n ≤ 2 * (2 * m * 2 ^ c + 2 ^ c))
    (hlo : 2 * (2 * m * 2 ^ c) ≤ stickyRoot n + 2 * 2 ^ c) (hmin : 2 * 2 ^ (53 + c) ≤ stickyRoot n) :
    IsRounding m (j + c + 1) (√n * 2 ^ j) := by
  have hup' := sqrt_le_of_stickyRoot_le (n := n) (t := 2 * m * 2 ^ c + 2 ^ c) (by exact_mod_cast hup)
  have hlo' := le_sqrt_of_le_stickyRoot (n := n) (t := 2 * m * 2 ^ c - 2 ^ c) (by zify at hlo; linarith)
  have hmin' := le_sqrt_of_le_stickyRoot (n := n) (t := 2 ^ (53 + c)) (by exact_mod_cast hmin)
  push_cast at hup' hlo' hmin'
  have hj : (0 : ℝ) ≤ 2 ^ j := by positivity
  constructor
  · have hu : (2 : ℝ) ^ (j + c + 1) = 2 * 2 ^ c * 2 ^ j := by ring
    rw [hu, abs_sub_le_iff]
    constructor
    · linarith [mul_le_mul_of_nonneg_right hlo' hj]
    · linarith [mul_le_mul_of_nonneg_right hup' hj]
  · right
    calc (2 : ℝ) ^ (52 + (j + c + 1)) = 2 ^ (53 + c) * 2 ^ j := by rw [← pow_add]; congr 1; omega
      _ ≤ √n * 2 ^ j := mul_le_mul_of_nonneg_right hmin' hj

section
variable {n : Nat} (j : Nat)

theorem roundUlp_stickyRoot_gt (h : 2 ^ 110 ≤ n) : j < roundUlp (stickyRoot n * 2 ^ j) 2 := by
  have hr : 2 ^ 56 ≤ stickyRoot n := two_pow_le_stickyRoot (k := 55) h
  have hlt := lt_two_pow_f64UlpExp (stickyRoot n * 2 ^ j / 2)
  rw [Nat.div_lt_iff_lt_mul two_pos, ← pow_succ] at hlt
  have hle : 2 ^ (56 + j) ≤ stickyRoot n * 2 ^ j := by rw [pow_add]; exact Nat.mul_le_mul_right _ hr
  have hexp := (Nat.pow_lt_pow_iff_right (a := 2) (by omega)).1 (hle.trans_lt hlt)
  rw [roundUlp]
  omega

theorem roundUlp_stickyRoot_le (h : n < 2 ^ 164) : roundUlp (stickyRoot n * 2 ^ j) 2 ≤ 30 + j := by
  refine f64UlpExp_le ((Nat.div_le_self _ _).trans_lt ?_)
  rw [← add_assoc, pow_add]
  exact Nat.mul_lt_mul_of_pos_right (stickyRoot_lt (k := 82) h) (by positivity)

theorem isRounding_sqrt (h : 2 ^ 110 ≤ n) :
    IsRounding (roundSig (stickyRoot n * 2 ^ j) 2) (roundUlp (stickyRoot n * 2 ^ j) 2) (√n * 2 ^ j) := by
  have hgt := roundUlp_stickyRoot_gt j h
  obtain ⟨h1, h2⟩ := roundSig_half (stickyRoot n * 2 ^ j) two_pos
  have hunit := (Nat.le_div_iff_mul_le two_pos).1
    (two_pow_roundUlp_le (num := stickyRoot n * 2 ^ j) (den := 2) (by omega))
  obtain ⟨c, hc⟩ := Nat.exists_eq_add_of_lt hgt
  rw [hc] at h1 h2 hunit ⊢
  have hj : 0 < 2 ^ j := by positivity
  refine isRounding_sqrt_of_stickyRoot j (Nat.le_of_mul_le_mul_right ?_ hj) (Nat.le_of_mul_le_mul_right ?_ hj)
    (Nat.le_of_mul_le_mul_right ?_ hj)
  · ring_nf at h1 ⊢; omega
  · ring_nf at h2 ⊢; omega
  · ring_nf at hunit ⊢; omega

theorem f64IsFinite_round_stickyRoot (neg : Bool) (hn : n < 2 ^ 164) (hj : j < 2000) :
    f64IsFinite (f64Round neg (stickyRoot n * 2 ^ j) 2) = true := by
  have hu := roundUlp_stickyRoot_le j hn
  have hm := (significand_roundSig (stickyRoot n * 2 ^ j) 2).1
  rw [f64IsFinite_round_iff, f64InfLow]
  omega

end

/-- The even power of two that f64Sqrt takes out is 2^(2 · sqrtShift). -/
def sqrtShift (x : F64) : Nat := (f64Scale x + 1074 - 110) / 2

/-- What f64Sqrt takes the integer root of. -/
def sqrtArg (x : F64) : Nat := f64Mant x * 2 ^ (f64Scale x + 1074 - 2 * sqrtShift x)

theorem sqrtArg_mul (x : F64) : sqrtArg x * (2 ^ sqrtShift x * 2 ^ sqrtShift x) = f64Mag x * f64One := by
  rw [sqrtArg, f64Mag, f64One, mul_assoc, mul_assoc, ← pow_add, ← pow_add, ← pow_add]
  unfold sqrtShift
  congr 2
  omega

theorem sqrtArg_lt (x : F64) : sqrtArg x < 2 ^ 164 := by
  calc sqrtArg x < 2 ^ 53 * 2 ^ (f64Scale x + 1074 - 2 * sqrtShift x) :=
        Nat.mul_lt_mul_of_pos_right (f64Mant_lt x) (by positivity)
    _ = 2 ^ (53 + (f64Scale x + 1074 - 2 * sqrtShift x)) := (pow_add ..).symm
    _ ≤ 2 ^ 164 := Nat.pow_le_pow_right two_pos (by unfold sqrtShift; omega)

theorem le_sqrtArg {x : F64} (h : f64Mag x ≠ 0) : 2 ^ 110 ≤ sqrtArg x := by
  have hm : 0 < f64Mant x := Nat.pos_of_ne_zero (left_ne_zero_of_mul h)
  calc 2 ^ 110 ≤ 2 ^ (f64Scale x + 1074 - 2 * sqrtShift x) :=
        Nat.pow_le_pow_right two_pos (by unfold sqrtShift; omega)
    _ ≤ sqrtArg x := Nat.le_mul_of_pos_left _ hm

theorem sqrtShift_lt (x : F64) : sqrtShift x < 2000 := by
  have h : f64Exp x < 2 ^ 11 := (x.extractLsb' 52 11).isLt
  unfold sqrtShift f64Scale
  omega

section
variable {x : F64} (hx : f64IsFinite x = true) (hpos : 0 < f64Units x)
include hpos

theorem f64Sign_of_pos : f64Sign x = false := by
  by_contra h
  rw [f64Units, if_pos (by simpa using h)] at hpos
  omega

theorem f64Mag_of_pos : (f64Mag x : ℤ) = f64Units x := by simp [f64Units, f64Sign_of_pos hpos]

include hx in
theorem f64Sqrt_of_pos : f64Sqrt x = f64Round false (stickyRoot (sqrtArg x) * 2 ^ sqrtShift x) 2 := by
  simp only [f64Sqrt, f64IsNaN_of_finite hx, f64IsInf_of_finite hx, f64IsZero_eq_false hpos.ne', f64Sign_of_pos hpos,
    natSqrt_eq]
  rfl

theorem sqrt_f64Units : √((f64Units x : ℝ) * 2 ^ 1074) = √(sqrtArg x : ℝ) * 2 ^ sqrtShift x := by
  have h : (f64Units x : ℝ) * 2 ^ 1074 = sqrtArg x * (2 ^ sqrtShift x * 2 ^ sqrtShift x) := by
    rw [← f64Mag_of_pos hpos, ← f64One_cast]
    exact_mod_cast (sqrtArg_mul x).symm
  rw [h, Real.sqrt_mul (by positivity), Real.sqrt_mul_self (by positivity)]

include hx in
theorem f64IsFinite_sqrt : f64IsFinite (f64Sqrt x) = true := by
  rw [f64Sqrt_of_pos hx hpos]
  exact f64IsFinite_round_stickyRoot _ _ (sqrtArg_lt x) (sqrtShift_lt x)

include hx in
theorem f64Sqrt_nearest (z : F64) : |(f64Units (f64Sqrt x) : ℝ) - √((f64Units x : ℝ) * 2 ^ 1074)| ≤
    |(f64Units z : ℝ) - √((f64Units x : ℝ) * 2 ^ 1074)| := by
  have hfin := f64IsFinite_sqrt hx hpos
  have hmag : f64Mag x ≠ 0 := fun h => hpos.ne' (f64Units_of_mag_zero h)
  rw [sqrt_f64Units hpos, f64Sqrt_of_pos hx hpos] at *
  exact (isRounding_sqrt _ (le_sqrtArg hmag)).le_f64Units (by positivity) (f64Sign_round hfin) (f64Mag_round hfin) z

end

end Sys2Proof.Machine

namespace Sys2Proof.Proofs
open Sys2Proof.Machine

/-- Settles O55: each of the three is one rounding of the exact result, and a rounding is nearest. -/
theorem sumProductQuotientAreNearest : Obligations.SumProductQuotientAreNearest := fun _ _ hx hy =>
  ⟨nearest_f64Add hx hy, nearest_f64Mul hx hy, nearest_f64Div hx hy⟩

/-- Settles O56: two finite values are as near only halfway between two significands, where the even one is taken. -/
theorem tiesGoToEven : Obligations.TiesGoToEven := fun _ _ _ _ hden hfin _ hne htie =>
  f64Mant_round_even_of_tie hden hfin hne htie

/-- Settles O57: fewer than 53 bits are exact, and 2^53 is 2^52 doubled. -/
theorem integersConvertExactly : Obligations.IntegersConvertExactly := by
  intro i hi
  rcases hi.lt_or_eq with hlt | heq
  · exact f64OfInt_exact (k := 0) (by rw [pow_zero, mul_one]) hlt (by omega)
  · exact f64OfInt_exact (m := 2 ^ 52) (k := 1) (by rw [heq]; rfl) (by decide) le_rfl

/-- Settles O58: the sticky root rounds as the real root does; the other two clauses are cases of f64Sqrt. -/
theorem squareRootIsNearest : Obligations.SquareRootIsNearest := by
  refine ⟨fun x hx hpos => ⟨f64IsFinite_sqrt hx hpos, fun z _ => f64Sqrt_nearest hx hpos z⟩, by decide, ?_⟩
  intro x hnan hzero hneg
  simp [f64Sqrt, hnan, hzero, hneg]

end Sys2Proof.Proofs
end

section
/-! PROOFS. The bus (R43, R81, R83, R84, R201). `BusRun evs s t` says that t comes from s by the whole transactions and
waits `evs`, with both counters kept true. It composes, every shared operation is one, and so is the body of every op;
the bus discipline and the counters follow. -/

namespace Sys2Proof.Machine

/-! ### The discipline and the counts over a trace -/

theorem busScan_append (p : BusPhase) (as bs : List Event) :
    busScan p (as ++ bs) = (busScan p as).bind (busScan · bs) := by
  induction as generalizing p with
  | nil => rfl
  | cons a as ih =>
    rw [List.cons_append, busScan, busScan]
    cases busNext p a with
    | none => rfl
    | some q => exact ih q

theorem countXfers_append (as bs : List Event) : countXfers (as ++ bs) = countXfers as + countXfers bs :=
  List.countP_append

theorem countTimeouts_append (as bs : List Event) : countTimeouts (as ++ bs) = countTimeouts as + countTimeouts bs :=
  List.countP_append

/-- R81: every byte follows its pre-byte delay and is counted once. -/
theorem xferEvents_bus (s : State) (k n : Nat) (bs : List Byte) :
    busScan (.inside n) (xferEvents s k bs) = some (.inside (n + bs.length)) ∧
      countXfers (xferEvents s k bs) = bs.length ∧ countTimeouts (xferEvents s k bs) = 0 := by
  induction bs generalizing k n with
  | nil => exact ⟨rfl, rfl, rfl⟩
  | cons b bs ih =>
    obtain ⟨hscan, hx, ht⟩ := ih (k + 1) (n + 1)
    refine ⟨?_, ?_, ?_⟩
    · simp [xferEvents, busScan, busNext, hscan, Nat.add_assoc, Nat.add_comm 1]
    · simpa [xferEvents, countXfers] using hx
    · simpa [xferEvents, countTimeouts] using ht

/-- R83, R84: the events are whole transactions and waits, with n byte transfers and m timeouts. -/
def Whole (evs : List Event) (n m : Nat) : Prop :=
  busScan .between evs = some .between ∧ countXfers evs = n ∧ countTimeouts evs = m

theorem Whole.append {as bs : List Event} {n n' m m' : Nat} (ha : Whole as n m) (hb : Whole bs n' m') :
    Whole (as ++ bs) (n + n') (m + m') := by
  obtain ⟨hscan, hx, ht⟩ := ha
  obtain ⟨hscan', hx', ht'⟩ := hb
  exact ⟨by rw [busScan_append, hscan]; exact hscan', by rw [countXfers_append, hx, hx'],
    by rw [countTimeouts_append, ht, ht']⟩

theorem frameEvents_whole (s : State) (k : Nat) (b : Byte) (bs : List Byte) :
    Whole (frameEvents s k (b :: bs)) (bs.length + 1) 0 := by
  obtain ⟨hscan, hx, ht⟩ := xferEvents_bus s k 0 (b :: bs)
  rw [List.length_cons, Nat.zero_add] at hscan
  refine ⟨?_, ?_, ?_⟩
  · simp [frameEvents, busScan, busNext, busScan_append, hscan]
  · simpa [frameEvents, countXfers] using hx
  · simpa [frameEvents, countTimeouts] using ht

theorem readEvents_whole (s : State) (id : BitVec 4) : Whole (readEvents s id) 3 0 := ⟨rfl, rfl, rfl⟩

theorem replicate_poll_whole (j : Nat) (l : Bool) : Whole (List.replicate j (.poll l)) 0 0 := by
  induction j with
  | zero => exact ⟨rfl, rfl, rfl⟩
  | succ j ih => exact Whole.append (as := [.poll l]) (n := 0) (m := 0) ⟨rfl, rfl, rfl⟩ ih

/-- R200: a ready wait transfers no byte, and ends in at most one timeout. -/
theorem waitEvents_whole (s : State) (budget : Nat) :
    Whole (waitEvents s budget) 0 (if (firstReady s budget).isSome then 0 else 1) := by
  have hsettle : Whole [.delay .settle] 0 0 := ⟨rfl, rfl, rfl⟩
  unfold waitEvents
  cases firstReady s budget with
  | some j => exact (hsettle.append (replicate_poll_whole j true)).append (bs := [.poll false]) ⟨rfl, rfl, rfl⟩
  | none => exact (hsettle.append (replicate_poll_whole budget true)).append (bs := [.timeout]) ⟨rfl, rfl, rfl⟩

/-! ### Runs on the bus -/

/-- From s to t the bus carries the events `evs`, and nothing else of the bus changes. -/
structure BusRun (evs : List Event) (s t : State) : Prop where
  trace : t.trace = s.trace ++ evs
  scan : busScan .between evs = some .between
  csN : s.csN = true → t.csN = true
  resetN : t.resetN = s.resetN
  xfers : t.xferCount = s.xferCount + BitVec.ofNat 32 (countXfers evs)
  timeouts : t.timeoutCount.toNat = min (s.timeoutCount.toNat + countTimeouts evs) 0xFFFFFFFF

/-- The fields that a run on the bus is about. -/
def busFields (s : State) : List Event × Bool × Bool × Word × Word :=
  (s.trace, s.csN, s.resetN, s.xferCount, s.timeoutCount)

/-- An update of other fields does not show on the bus. -/
theorem BusRun.congr {evs : List Event} {s t u : State} (h : BusRun evs s t) (hu : busFields u = busFields t) :
    BusRun evs s u := by
  simp only [busFields, Prod.mk.injEq] at hu
  obtain ⟨htr, hcs, hrst, hx, hto⟩ := hu
  exact ⟨htr ▸ h.trace, h.scan, hcs ▸ h.csN, hrst ▸ h.resetN, hx ▸ h.xfers, hto ▸ h.timeouts⟩

theorem BusRun.refl (s : State) : BusRun [] s s where
  trace := by simp
  scan := rfl
  csN := id
  resetN := rfl
  xfers := by simp [countXfers]
  timeouts := by
    have := s.timeoutCount.isLt
    simp only [countTimeouts, List.countP_nil]
    omega

theorem BusRun.trans {as bs : List Event} {s t u : State} (h : BusRun as s t) (h' : BusRun bs t u) :
    BusRun (as ++ bs) s u where
  trace := by rw [h'.trace, h.trace, List.append_assoc]
  scan := by rw [busScan_append, h.scan]; exact h'.scan
  csN hs := h'.csN (h.csN hs)
  resetN := h'.resetN.trans h.resetN
  xfers := by rw [h'.xfers, h.xfers, countXfers_append, BitVec.ofNat_add, BitVec.add_assoc]
  timeouts := by rw [h'.timeouts, h.timeouts, countTimeouts_append]; omega

/-- R83: one transaction. -/
theorem transferred_busRun {n : Nat} {evs : List Event} (h : Whole evs n 0) (armed : Bool) (s : State) :
    BusRun evs s (transferred n evs armed s) := by
  obtain ⟨hscan, hx, ht⟩ := h
  refine ⟨rfl, hscan, fun _ => rfl, rfl, by rw [hx]; rfl, ?_⟩
  exact ht ▸ (BusRun.refl s).timeouts

theorem wregTx_busRun (id : BitVec 4) (data : List Byte) (s : State) :
    BusRun (frameEvents s 0 (wregByte id :: countByte data.length :: data)) s (wregTx id data s) := by
  rw [wregTx_eq]
  exact (transferred_busRun (frameEvents_whole s 0 _ _) false s).congr rfl

theorem rregTx_busRun (id : BitVec 4) (s : State) : BusRun (readEvents s id) s (rregTx id s).2 := by
  rw [rregTx_eq]
  exact transferred_busRun (readEvents_whole s id) false s

theorem commandEffect_busFields (c : Byte) (armed : Bool) (s : State) :
    busFields (commandEffect c armed s) = busFields s := by
  unfold commandEffect
  split_ifs <;> rfl

theorem cmdTx_busRun (c : Byte) (s : State) : BusRun (frameEvents s 0 [c]) s (cmdTx c s) := by
  rw [cmdTx_eq]
  exact (transferred_busRun (frameEvents_whole s 0 c []) _ s).congr (commandEffect_busFields _ _ _)

theorem sampleTx_busRun (s : State) : BusRun (frameEvents s 0 [0xFF#8, 0xFF#8, 0xFF#8]) s (sampleTx s) := by
  rw [sampleTx_eq]
  exact transferred_busRun (frameEvents_whole s 0 _ _) false s

/-- R81: between transactions every delay but the pre-byte one may be requested. -/
theorem delay_busRun {k : DelayKind} (hk : k ≠ .pre) (s : State) : BusRun [.delay k] s (delay k s) := by
  have hscan : busScan .between [.delay k] = some .between := by
    cases k with
    | pre => exact absurd rfl hk
    | _ => rfl
  exact ⟨rfl, hscan, id, rfl, by simp [delay, countXfers], (BusRun.refl s).timeouts⟩

theorem cmdTx_delay_busRun (c : Byte) {k : DelayKind} (hk : k ≠ .pre) (s : State) :
    BusRun (frameEvents s 0 [c] ++ [.delay k]) s (delay k (cmdTx c s)) :=
  (cmdTx_busRun c s).trans (delay_busRun hk _)

theorem satInc_toNat (c : Word) : (satInc c).toNat = min (c.toNat + 1) 0xFFFFFFFF := by
  unfold satInc
  split <;> bv_omega

/-- R200, R201: a ready wait counts its timeout. -/
theorem waited_busRun (budget : Nat) (s : State) : BusRun (waitEvents s budget) s (waited budget s) := by
  obtain ⟨hscan, hx, ht⟩ := waitEvents_whole s budget
  refine ⟨waited_trace budget s, hscan, by simp, by simp, by simp [hx], ?_⟩
  rw [ht]
  unfold waited
  cases firstReady s budget with
  | some j => exact (BusRun.refl s).timeouts
  | none => exact satInc_toNat _

/-- The body of every op runs on the bus in whole transactions and waits. -/
theorem body_busRun {s t : State} (h : Body s t) : ∃ evs, BusRun evs s t := by
  cases h with
  | wreg id data s => exact ⟨_, (wregTx_busRun id data s).congr rfl⟩
  | rreg id s => exact ⟨_, (rregTx_busRun id s).congr rfl⟩
  | cmd c s => exact ⟨_, (cmdTx_busRun c s).congr rfl⟩
  | init s =>
    have h := (waited_busRun s.params.waitBudget.toNat s).trans (rregTx_busRun 0#4 _)
    rw [identify, readyWait_eq]
    dsimp only
    split <;> exact ⟨_, h.congr (by simp [busFields])⟩
  | config g r s =>
    rw [configure, readyWait_eq]
    exact ⟨_, ((waited_busRun s.params.waitBudget.toNat s).trans (wregTx_busRun 0#4
      (configBurst s.params g r) _)).congr (by simp [busFields])⟩
  | selch ch s =>
    unfold selectChannel
    split
    · exact ⟨_, (BusRun.refl s).congr rfl⟩
    · exact ⟨_, (wregTx_busRun 1#4 [muxByte ch] s).congr rfl⟩
  | syncwake s =>
    have hsync := cmdTx_delay_busRun 0xFC#8 (k := .syncGap) (by decide) s
    exact ⟨_, (hsync.trans (cmdTx_delay_busRun 0x00#8 (k := .wakeGap) (by decide) _)).congr rfl⟩
  | wait budget s =>
    rw [waitOp, readyWait_eq]
    exact ⟨_, (waited_busRun budget.toNat s).congr rfl⟩
  | rdsample acc s =>
    unfold readSample
    cases acc <;> exact ⟨_, (sampleTx_busRun s).congr rfl⟩
  | stclr s => exact ⟨_, (BusRun.refl s).congr rfl⟩
  | stupd v s => exact ⟨_, (BusRun.refl s).congr rfl⟩
  | stfin s => exact ⟨_, (BusRun.refl s).congr rfl⟩

theorem busInv_of_busRun {evs : List Event} {s t : State} (hs : busInv s) (h : BusRun evs s t) : busInv t := by
  obtain ⟨hcs, hrst, hscan⟩ := hs
  exact ⟨h.csN hcs, h.resetN.trans hrst, by rw [h.trace, busScan_append, hscan]; exact h.scan⟩

theorem countersInv_of_busRun {evs : List Event} {s t : State} (hs : countersInv s) (h : BusRun evs s t) :
    countersInv t := by
  obtain ⟨hx, ht⟩ := hs
  constructor
  · rw [h.xfers, h.trace, countXfers_append, hx, BitVec.ofNat_add]
  · rw [h.timeouts, h.trace, countTimeouts_append, ht]
    omega

end Sys2Proof.Machine

namespace Sys2Proof.Proofs
open Sys2Proof.Machine

/-- Settles O50: the body of every op is a run of whole transactions, and no other step touches the bus but reset. -/
theorem everyStepKeepsTheBusWhole : Obligations.EveryStepKeepsTheBusWhole := by
  intro s t hs h
  refine step_keeps (Inv := busInv) (fun _ _ _ _ hs => hs) (fun _ => ⟨rfl, rfl, rfl⟩) (fun _ _ _ _ hs => hs) ?_ hs h
  intro s t _ hs hb
  obtain ⟨evs, hrun⟩ := body_busRun hb
  exact busInv_of_busRun hs hrun

/-- Settles O51: a run on the bus counts the transfers and the timeouts that it adds to the trace. -/
theorem everyStepKeepsTheCountersTrue : Obligations.EveryStepKeepsTheCountersTrue := by
  intro s t hs h
  refine step_keeps (Inv := countersInv) (fun _ _ _ _ hs => hs) (fun _ => ⟨rfl, rfl⟩) (fun _ _ _ _ hs => hs) ?_ hs h
  intro s t _ hs hb
  obtain ⟨evs, hrun⟩ := body_busRun hb
  exact countersInv_of_busRun hs hrun

end Sys2Proof.Proofs
end

section
/-! PROOFS. Every op is its checks and its body: `exec_eq_checked` says so once for all instructions, with the checks
as the tables of Safety.lean (R37, R262, R265) and the body as `opBody`. -/

namespace Sys2Proof.Machine

/-! ### Instructions that send a command byte -/

/-- The rows of one command byte share one case (R124); the other instructions have one each. -/
theorem instr_cases {P : Instr → Prop} (command : ∀ i c, commandByte i = some c → P i) (init : P .init)
    (wreg : ∀ id val, P (.wreg id val)) (rreg : ∀ id, P (.rreg id)) (config : ∀ g r, P (.config g r))
    (selch : ∀ ch, P (.selch ch)) (syncwake : P .syncwake) (wait : ∀ budget, P (.wait budget))
    (rdsample : ∀ acc, P (.rdsample acc)) (stclr : P .stclr) (stupd : ∀ v, P (.stupd v)) (stfin : P .stfin)
    (rregDev : ∀ id, P (.rregDev id)) (wregDev : ∀ id data, P (.wregDev id data)) (i : Instr) : P i := by
  cases i with
  | init => exact init
  | wreg id val => exact wreg id val
  | rreg id => exact rreg id
  | config g r => exact config g r
  | selch ch => exact selch ch
  | syncwake => exact syncwake
  | wait budget => exact wait budget
  | rdsample acc => exact rdsample acc
  | stclr => exact stclr
  | stupd v => exact stupd v
  | stfin => exact stfin
  | rregDev id => exact rregDev id
  | wregDev id data => exact wregDev id data
  | _ => exact command _ _ rfl

/-- What an op does after its checks. -/
def opBody (i : Instr) (s : State) : State :=
  match i with
  | .init => identify (requestWord .init) s
  | .wreg id val => respond .ok (wregTx id [val] s)
  | .wregDev id data => respond .ok (wregTx id data s)
  | .rreg id | .rregDev id => respond .ok (setLastByte (rregTx id s).1 (rregTx id s).2)
  | .config g r => configure g r s
  | .selch ch => selectChannel ch s
  | .syncwake => syncWake s
  | .wait budget => waitOp budget s
  | .rdsample acc => readSample acc s
  | .stclr => respond .ok (clearStats s)
  | .stupd v => respond .ok (accumulate (sext24 v) s)
  | .stfin => respond .ok (finalize s)
  | .cmd c => respond .ok (cmdTx c s)
  | .wakeup => respond .ok (cmdTx 0x00#8 s)
  | .rdata => respond .ok (cmdTx 0x01#8 s)
  | .rdatac => respond .ok (cmdTx 0x03#8 s)
  | .sdatac => respond .ok (cmdTx 0x0F#8 s)
  | .selfcal => respond .ok (cmdTx 0xF0#8 s)
  | .selfocal => respond .ok (cmdTx 0xF1#8 s)
  | .selfgcal => respond .ok (cmdTx 0xF2#8 s)
  | .sysocal => respond .ok (cmdTx 0xF3#8 s)
  | .sysgcal => respond .ok (cmdTx 0xF4#8 s)
  | .sync => respond .ok (cmdTx 0xFC#8 s)
  | .standby => respond .ok (cmdTx 0xFD#8 s)
  | .devReset => respond .ok (cmdTx 0xFE#8 s)

section
variable {i : Instr} {c : Byte} (hc : commandByte i = some c)
include hc

theorem opBody_command (s : State) : opBody i s = respond .ok (cmdTx c s) := by
  cases i <;> cases hc <;> rfl

theorem exec_command (s : State) : exec i s = .next (sendCommand (requestWord i) c s) := by
  cases i <;> cases hc <;> rfl

theorem operandsLegal_command : operandsLegal i ↔ c ∈ legalCommands := by
  cases i <;> cases hc <;> simp [operandsLegal, commandByte]

theorem allowedStates_command : allowedStates i = commandStates c := by
  cases i <;> cases hc <;> rfl

theorem not_countFull_command (s : State) : ¬ countFull i s := by
  rintro ⟨-, rfl | ⟨v, rfl⟩⟩ <;> cases hc

end

/-! ### The checks are the tables -/

theorem inConfigStates_iff (p : PState) : inConfigStates p = true ↔ p ∈ [.idle, .configured, .chsel] := by
  cases p <;> decide

theorem inSelectStates_iff (p : PState) : inSelectStates p = true ↔ p ∈ [.configured, .chsel] := by
  cases p <;> decide

theorem pastReset_iff (p : PState) : pastReset p = true ↔ p ∈ [.idle, .configured, .chsel, .cont] := by
  cases p <;> decide

theorem true_iff_mem_allStates (p : PState) : true = true ↔ p ∈ [.reset, .idle, .configured, .chsel, .cont] := by
  cases p <;> decide

theorem cmdOk_iff (c : Byte) : cmdOk c = true ↔ c ∈ legalCommands := List.contains_iff_mem

/-- R37, R148, for one command byte. -/
theorem cmdStateOk_iff (c : Byte) (p : PState) (pending : Bool) :
    cmdStateOk c p pending = true ↔ p ∈ commandStates c ∧ (c = 0x03#8 → pending = false) := by
  unfold cmdStateOk commandStates
  by_cases h3 : c = 0x03#8
  · simp [h3]
  · by_cases hp : c = 0x0F#8 ∨ c = 0xFE#8
    · simp [h3, hp, pastReset_iff]
    · simp [h3, hp, inConfigStates_iff]

theorem countHasRoom_iff (s : State) : countHasRoom s = true ↔ s.stCount ≠ 0xFFFFFFFF#32 := bne_iff_ne

theorem idOk_iff (id : BitVec 4) : idOk id = true ↔ id.toNat ≤ 10 := decide_eq_true_iff

theorem gainOk_iff (g : BitVec 3) : gainOk g = true ↔ g.toNat ≠ 7 := by
  have := g.isLt
  rw [gainOk, decide_eq_true_iff]
  omega

theorem burstIdsOk_iff (id : BitVec 4) {len : Nat} (hlen : 1 ≤ len) :
    burstIdsOk id len = true ↔ id.toNat + (len - 1) ≤ 10 := by
  rw [burstIdsOk, Config.regMax, decide_eq_true_iff]
  omega

/-- An op that sends no command byte is allowed in the states of its row, whatever syncPending is. -/
theorem iff_allowed {i : Instr} {s : State} {p : Prop} (hc : commandByte i = none)
    (hp : p ↔ s.pstate ∈ allowedStates i) : p ↔ allowed i s := by
  simp [allowed, hc, hp]

/-- Only two ops can find the count full. -/
theorem not_countFull {i : Instr} (hr : i ≠ .rdsample true) (hu : ∀ v, i ≠ .stupd v) (s : State) :
    ¬ countFull i s := by
  rintro ⟨-, rfl | ⟨v, rfl⟩⟩
  · exact hr rfl
  · exact hu v rfl

open Classical in
theorem checked_congr {w : Word} {a b c : Bool} {A B C : Prop} {f : State → State} {s : State} (ha : a = true ↔ A)
    (hb : b = true ↔ B) (hc : c = true ↔ ¬ C) :
    (.next (checked w a b c f s) : Host.Outcome State Fault Refusal) =
      .next (checked w (decide A) (decide B) (!decide C) f s) := by
  have hc' : c = !decide C := by rw [Bool.eq_iff_iff, hc]; simp
  simp [← ha, ← hb, hc']

open Classical in
/-- R267: every op is its checks in their order and then its body. -/
theorem exec_eq_checked {i : Instr} (hw : i.wellFormed = true) (s : State) :
    exec i s = .next (checked (requestWord i) (decide (operandsLegal i)) (decide (allowed i s))
      (!decide (countFull i s)) (opBody i) s) := by
  cases i using instr_cases with
  | command i c hc =>
    have hbody : opBody i = fun s => respond .ok (cmdTx c s) := funext (opBody_command hc)
    rw [exec_command hc, hbody]
    refine checked_congr ?_ ?_ ?_
    · rw [cmdOk_iff, operandsLegal_command hc]
    · simp [cmdStateOk_iff, allowed, allowedStates_command hc, hc]
    · simp [not_countFull_command hc]
  | init =>
    exact checked_congr (iff_of_true rfl nofun) (iff_allowed rfl (by simp [allowedStates])) (by simp [not_countFull])
  | wreg id val =>
    exact checked_congr (burstIdsOk_iff id (len := 1) le_rfl) (iff_allowed rfl (inConfigStates_iff _))
      (by simp [not_countFull])
  | rreg id => exact checked_congr (idOk_iff id) (iff_allowed rfl (inConfigStates_iff _)) (by simp [not_countFull])
  | config g r => exact checked_congr (gainOk_iff g) (iff_allowed rfl (inConfigStates_iff _)) (by simp [not_countFull])
  | selch ch =>
    exact checked_congr (iff_of_true rfl nofun) (iff_allowed rfl (inSelectStates_iff _)) (by simp [not_countFull])
  | syncwake =>
    exact checked_congr (iff_of_true rfl nofun) (iff_allowed rfl (inConfigStates_iff _)) (by simp [not_countFull])
  | wait budget =>
    exact checked_congr (iff_of_true rfl nofun) (iff_allowed rfl (true_iff_mem_allStates _)) (by simp [not_countFull])
  | rdsample acc =>
    refine checked_congr (iff_of_true rfl nofun) (iff_allowed rfl (by simp [allowedStates])) ?_
    cases acc <;> simp [countHasRoom_iff, countFull]
  | stclr =>
    exact checked_congr (iff_of_true rfl nofun) (iff_allowed rfl (true_iff_mem_allStates _)) (by simp [not_countFull])
  | stupd v =>
    refine checked_congr (iff_of_true rfl nofun) (iff_allowed rfl (true_iff_mem_allStates _)) ?_
    simp [countHasRoom_iff, countFull]
  | stfin =>
    exact checked_congr (iff_of_true rfl nofun) (iff_allowed rfl (true_iff_mem_allStates _)) (by simp [not_countFull])
  | rregDev id => exact checked_congr (idOk_iff id) (iff_allowed rfl (inConfigStates_iff _)) (by simp [not_countFull])
  | wregDev id data =>
    have hlen : 1 ≤ data.length ∧ data.length ≤ 4 := by simpa [Instr.wellFormed, burstLengthOk] using hw
    have hexec : exec (.wregDev id data) s = .next (writeRegisters (requestWord (.wregDev id data)) id data s) :=
      if_pos hw
    rw [hexec]
    exact checked_congr (burstIdsOk_iff id hlen.1) (iff_allowed rfl (inConfigStates_iff _)) (by simp [not_countFull])

theorem exec_of_proceeds {i : Instr} {s : State} (h : proceeds i s) : exec i s = .next (opBody i s) := by
  obtain ⟨hh, hw, ho, ha, hc⟩ := h
  simp [exec_eq_checked hw, ho, ha, hc, checked_passed hh]

theorem allowed_of_proceeds {i : Instr} {s : State} (h : proceeds i s) : allowed i s := by
  obtain ⟨-, -, -, ha, -⟩ := h
  exact ha

/-- R38, R263. -/
theorem exec_of_not_allowed {i : Instr} {s : State} (hw : i.wellFormed = true) (hh : halted s = false)
    (ho : operandsLegal i) (ha : ¬ allowed i s) : exec i s = .next (raise .order (requestWord i) s) := by
  simp [exec_eq_checked hw, ho, ha, checked_order hh]

theorem wellFormed_of_exec {i : Instr} {s t : State} (h : exec i s = .next t) : i.wellFormed = true := by
  cases i with
  | wregDev id data =>
    by_contra hw
    rw [exec, execWregDev, if_neg (show ¬ burstLengthOk data = true from hw)] at h
    cases h
  | _ => rfl

/-- What exec can answer: HALTED, a fault with the op's request word, or the op's body. -/
theorem exec_cases {i : Instr} {s t : State} (h : exec i s = .next t) :
    t = respond .halted s ∨ t = opBody i s ∨ ∃ k, t = raise k (requestWord i) s := by
  classical
  rw [exec_eq_checked (wellFormed_of_exec h)] at h
  injection h with h
  subst h
  rcases checked_cases (requestWord i) (decide (operandsLegal i)) (decide (allowed i s)) (!decide (countFull i s))
    (opBody i) s with h | ⟨-, h⟩ | ⟨-, k, h⟩
  · exact .inl h
  · exact .inr (.inl h)
  · exact .inr (.inr ⟨k, h⟩)

end Sys2Proof.Machine

namespace Sys2Proof.Proofs
open Sys2Proof.Machine

/-- Settles O15: the checks find the state disallowed before the body could run. -/
theorem disallowedStateTakesOrder : Obligations.DisallowedStateTakesOrder := fun _ _ hw hh ho ha =>
  exec_of_not_allowed hw hh ho ha

end Sys2Proof.Proofs
end

section
/-! PROOFS. The body of every op as updates one after the other, over `transferred` and `waited` for what it does on the
bus. The simp lemmas of Laws/State.lean then read off any field. -/

namespace Sys2Proof.Machine

/-- The fields that a transaction leaves as they were (R83), and syncArmed (R36). -/
@[simp] theorem transferred_frame (n : Nat) (evs : List Event) (armed : Bool) (s : State) :
    let t := transferred n evs armed s
    t.pstate = s.pstate ∧ t.syncPending = s.syncPending ∧ t.syncArmed = armed ∧
      t.cfgGain = s.cfgGain ∧ t.cfgRate = s.cfgRate ∧ t.cfgChan = s.cfgChan ∧
      t.lastByte = s.lastByte ∧ t.lastSample = s.lastSample ∧ t.faults = s.faults ∧ t.faultWord = s.faultWord ∧
      t.stCount = s.stCount ∧ t.stMean = s.stMean ∧ t.stM2 = s.stM2 ∧ t.stMin = s.stMin ∧ t.stMax = s.stMax ∧
      t.finCount = s.finCount ∧ t.finMean = s.finMean ∧ t.finVar = s.finVar ∧ t.finStdev = s.finStdev ∧
      t.finMin = s.finMin ∧ t.finMax = s.finMax ∧ t.finP2P = s.finP2P ∧ t.finNonEmpty = s.finNonEmpty ∧
      t.finVarValid = s.finVarValid := by
  simp only [transferred, and_self]

/-- R140, as the updates that make it up. -/
theorem wregTx_next (id : BitVec 4) (data : List Byte) (s : State) :
    wregTx id data s = setPending (writesMux id data.length || s.syncPending)
      (transferred (data.length + 2) (frameEvents s 0 (wregByte id :: countByte data.length :: data)) false s) :=
  wregTx_eq id data s

/-- R150: where a command byte leaves pstate. -/
def pstateAfter (c : Byte) (p : PState) : PState :=
  if c = 0x03#8 then .cont else if c = 0xFE#8 then .idle else if c = 0x0F#8 ∧ p = .cont then .chsel else p

/-- R35, R150: what a command byte leaves of syncPending. -/
def pendingAfter (c : Byte) (armed pending : Bool) : Bool :=
  if c = 0x00#8 then pending && !armed else if c = 0xFE#8 then false else pending

/-- R149, R150: a command transaction and its effect. -/
theorem cmdTx_next (c : Byte) (s : State) :
    cmdTx c s = setPState (pstateAfter c s.pstate) (setPending (pendingAfter c s.syncArmed s.syncPending)
      (transferred 1 (frameEvents s 0 [c]) (c == 0xFC#8) s)) := by
  rw [cmdTx_eq]
  unfold commandEffect pstateAfter pendingAfter
  by_cases h0 : c = 0x00#8
  · subst h0; cases s.syncArmed <;> simp [transferred, setPending, setPState]
  by_cases h3 : c = 0x03#8
  · subst h3; simp [transferred, setPState, setPending]
  by_cases hF : c = 0x0F#8
  · subst hF; by_cases hp : s.pstate = .cont <;> simp [transferred, setPState, setPending, hp]
  by_cases hE : c = 0xFE#8
  · subst hE; simp [transferred, setPState, setArmed, setPending]
  · simp [h0, h3, hF, hE, transferred, setPState, setPending]

theorem readEvents_waited (budget : Nat) (s : State) (id : BitVec 4) :
    readEvents (waited budget s) id = readEvents s id := by
  simp [readEvents, xferEvents, misoAt_waited]

/-- R170: INIT's ready wait and read, before the identity is looked at. -/
def initRead (s : State) : State :=
  setLastByte (misoAt s 2) (transferred 3 (readEvents s 0#4) false (waited s.params.waitBudget.toNat s))

/-- R170, R264. -/
theorem identify_next (w : Word) (s : State) :
    identify w s = if (misoAt s 2).extractLsb' 4 4 = s.params.expectedId then
        respond (waitedStatus s.params.waitBudget.toNat s) (setPState .idle (initRead s))
      else raise .identity w (initRead s) := by
  simp only [identify, readyWait_eq, rregTx_eq, readEvents_waited, misoAt_waited, waitStatus_eq]
  rfl

theorem configure_next (g : BitVec 3) (r : BitVec 4) (s : State) :
    configure g r s = respond (waitedStatus s.params.waitBudget.toNat s) (setPState .configured
      (setShadows g r 0#3 (wregTx 0#4 (configBurst s.params g r) (waited s.params.waitBudget.toNat s)))) := by
  rw [configure, readyWait_eq, waitStatus_eq]

theorem waitOp_next (budget : BitVec 24) (s : State) :
    waitOp budget s = respond (waitedStatus budget.toNat s) (waited budget.toNat s) := by
  rw [waitOp, readyWait_eq, waitStatus_eq]

/-- R176: a channel above 7 has no effect. -/
theorem selectChannel_next (ch : BitVec 4) (s : State) :
    selectChannel ch s = if ch.toNat ≤ 7 then
        respond .ok (setPState .chsel (setShadows s.cfgGain s.cfgRate (ch.setWidth 3) (wregTx 1#4 [muxByte ch] s)))
      else respond .ok s := by
  have hch : ch.extractLsb' 0 3 = ch.setWidth 3 := by
    revert ch
    decide
  unfold selectChannel
  by_cases h : ch.toNat ≤ 7
  · rw [if_neg (by omega), if_pos h, hch]
    simp [wregTx_next]
  · rw [if_pos (by omega), if_neg h]

theorem readSample_next (acc : Bool) (s : State) :
    readSample acc s =
      let t := setLastSample (decode24 (misoAt s 0) (misoAt s 1) (misoAt s 2))
        (transferred 3 (frameEvents s 0 [0xFF#8, 0xFF#8, 0xFF#8]) false s)
      respond .ok (if acc then accumulate t.lastSample t else t) := by
  rw [readSample, sampleTx_eq]
  rfl

/-- Every body is an instruction's. -/
theorem body_eq_opBody {s t : State} (h : Body s t) : ∃ i, t = opBody i s := by
  cases h with
  | wreg id data s => exact ⟨.wregDev id data, rfl⟩
  | rreg id s => exact ⟨.rreg id, rfl⟩
  | cmd c s => exact ⟨.cmd c, rfl⟩
  | init s => exact ⟨.init, rfl⟩
  | config g r s => exact ⟨.config g r, rfl⟩
  | selch ch s => exact ⟨.selch ch, rfl⟩
  | syncwake s => exact ⟨.syncwake, rfl⟩
  | wait budget s => exact ⟨.wait budget, rfl⟩
  | rdsample acc s => exact ⟨.rdsample acc, rfl⟩
  | stclr s => exact ⟨.stclr, rfl⟩
  | stupd v s => exact ⟨.stupd v, rfl⟩
  | stfin s => exact ⟨.stfin, rfl⟩

end Sys2Proof.Machine
end

section
/-! PROOFS. Faults and responses (R42, R266, R269): after its checks an op completes, but for INIT on another identity. -/

namespace Sys2Proof.Machine

theorem waitedStatus_cases (budget : Nat) (s : State) :
    waitedStatus budget s = .ok ∨ waitedStatus budget s = .timeout := by
  unfold waitedStatus
  split <;> simp

/-- R269: only INIT can raise a fault after its checks. -/
theorem opBody_completes {i : Instr} {s : State}
    (hid : i = .init → (misoAt s 2).extractLsb' 4 4 = s.params.expectedId) :
    (opBody i s).resp ∈ [some .ok, some .timeout] ∧ (opBody i s).faults = s.faults ∧
      (opBody i s).faultWord = s.faultWord := by
  cases i with
  | init => simp [opBody, identify_next, hid, initRead, waitedStatus_cases]
  | rdsample acc => cases acc <;> simp [opBody, readSample_next]
  | selch ch => simp only [opBody, selectChannel_next]; split <;> simp [wregTx_next]
  | config g r => simp [opBody, configure_next, wregTx_next, waitedStatus_cases]
  | wait budget => simp [opBody, waitOp_next, waitedStatus_cases]
  | syncwake => simp [opBody, syncWake, delay, cmdTx_next]
  | _ => simp [opBody, wregTx_next, rregTx_eq, cmdTx_next]

/-- R264. -/
theorem opBody_init_of_ne {s : State} (hid : (misoAt s 2).extractLsb' 4 4 ≠ s.params.expectedId) :
    opBody .init s = raise .identity (requestWord .init) (initRead s) := by
  simp [opBody, identify_next, hid]

/-- R42, for the body of an op. -/
theorem opBody_faultFields (i : Instr) (s : State) :
    ((opBody i s).faults = s.faults ∧ (opBody i s).faultWord = s.faultWord) ∨
      ((opBody i s).resp = some .fault ∧ (opBody i s).faultWord = requestWord i ∧
        (opBody i s).faults = s.faults ||| faultBit .identity) := by
  by_cases hid : i = .init → (misoAt s 2).extractLsb' 4 4 = s.params.expectedId
  · exact .inl (opBody_completes hid).2
  · obtain ⟨rfl, hne⟩ := Classical.not_imp.1 hid
    rw [opBody_init_of_ne hne]
    exact .inr ⟨rfl, rfl, by simp [initRead]⟩

/-- R42: with no fault before, the fault entered is the only one. -/
theorem faultInv_of_entry {s t : State} (c : FaultCode) (hh : halted s = false)
    (ht : t.faults = s.faults ||| faultBit c) : faultInv t := by
  have hs : s.faults = 0#5 := by simpa [halted] using hh
  rw [hs, BitVec.zero_or] at ht
  unfold faultInv
  rw [ht]
  cases c <;> simp [faultBit]

end Sys2Proof.Machine

namespace Sys2Proof.Proofs
open Sys2Proof.Machine

/-- Settles O18: an op that passes its checks is its body, which completes. -/
theorem opsThatPassTheChecksComplete : Obligations.OpsThatPassTheChecksComplete := fun _ _ h hid =>
  ⟨_, exec_of_proceeds h, opBody_completes hid⟩

/-- Settles O19: of the three answers of exec, HALTED and a completed body leave the fault fields. -/
theorem faultFieldsChangeOnlyOnEntry : Obligations.FaultFieldsChangeOnlyOnEntry := by
  intro i s t h
  rcases exec_cases h with rfl | rfl | ⟨k, rfl⟩
  · exact .inl ⟨rfl, rfl⟩
  · rcases opBody_faultFields i s with hsame | ⟨hr, hw, hf⟩
    · exact .inl hsame
    · exact .inr ⟨hr, hw, _, hf⟩
  · exact .inr ⟨rfl, rfl, k, rfl⟩

/-- Settles O53: a fault is only ever entered by an engine that is not halted, which has none. -/
theorem atMostOneFaultIsEverSet : Obligations.AtMostOneFaultIsEverSet := by
  intro s t hs h
  refine step_keeps (Inv := faultInv) (fun _ _ _ _ hs => hs) (fun _ => ⟨.head _, fun _ => rfl⟩)
    (fun _ c _ hh _ => faultInv_of_entry c hh rfl) ?_ hs h
  intro s t hh hs hb
  obtain ⟨i, rfl⟩ := body_eq_opBody hb
  rcases opBody_faultFields i s with ⟨hf, hw⟩ | ⟨-, -, hf⟩
  · unfold faultInv
    rwa [hf, hw]
  · exact faultInv_of_entry _ hh hf

end Sys2Proof.Proofs
end

section
/-! PROOFS. The protocol state (R34–R37): pstate, syncArmed and syncPending after every op, and the protocol invariant. -/

namespace Sys2Proof.Machine

section
variable {i : Instr} {c : Byte} (hc : commandByte i = some c)
include hc

theorem transitions_command (p : PState) : transitions i p = commandTransitions c p := by
  cases i <;> cases hc <;> rfl

theorem opBytes_command : opBytes i = 1 := by
  cases i <;> cases hc <;> rfl

theorem muxChanging_command : muxChanging i = false := by
  cases i <;> cases hc <;> rfl

end

/-- R34, R37: in the states where it is allowed, a command byte moves pstate as its row says. -/
theorem pstateAfter_eq_transition {c : Byte} {p : PState} (hp : p ∈ commandStates c) :
    pstateAfter c p = ((commandTransitions c p).head?).getD p := by
  unfold commandStates at hp
  unfold pstateAfter commandTransitions
  by_cases h3 : c = 0x03#8
  · simp_all
  by_cases hE : c = 0xFE#8
  · cases p <;> simp_all
  by_cases hF : c = 0x0F#8
  · cases p <;> simp_all
  · simp [h3, hE, hF]

/-- R34. -/
theorem opBody_pstate {i : Instr} {s : State} (ha : allowed i s) :
    (opBody i s).pstate = if i = .init ∧ (misoAt s 2).extractLsb' 4 4 ≠ s.params.expectedId then s.pstate
      else ((transitions i s.pstate).head?).getD s.pstate := by
  obtain ⟨hp, -⟩ := ha
  cases i using instr_cases with
  | command i c hc =>
    have hi : i ≠ .init := by rintro rfl; cases hc
    rw [allowedStates_command hc] at hp
    simp [opBody_command hc, cmdTx_next, transitions_command hc, pstateAfter_eq_transition hp, hi]
  | init =>
    have hs : s.pstate = .reset := by simpa [allowedStates] using hp
    by_cases hid : (misoAt s 2).extractLsb' 4 4 = s.params.expectedId
    · simp [opBody, identify_next, hid, hs, transitions]
    · simp [opBody_init_of_ne hid, hid, initRead]
  | config g r =>
    have ht : transitions (.config g r) s.pstate = [.configured] := by
      cases hs : s.pstate <;> simp_all [allowedStates, transitions]
    simp [opBody, configure_next, ht]
  | selch ch =>
    have ht : transitions (.selch ch) s.pstate = if ch.toNat ≤ 7 then [.chsel] else [] := by
      cases hs : s.pstate <;> simp_all [allowedStates, transitions]
    simp only [opBody, selectChannel_next, ht]
    split <;> simp [wregTx_next]
  | rdsample acc => cases acc <;> simp [opBody, readSample_next, transitions, commandByte]
  | syncwake => simp [opBody, syncWake, delay, cmdTx_next, pstateAfter, transitions, commandByte]
  | wait budget => simp [opBody, waitOp_next, transitions, commandByte]
  | _ => simp [opBody, wregTx_next, rregTx_eq, transitions, commandByte]

/-- R36. -/
theorem opBody_syncArmed (i : Instr) (s : State) :
    (opBody i s).syncArmed =
      if commandByte i = some 0xFC#8 then true else if opBytes i = 0 then s.syncArmed else false := by
  cases i using instr_cases with
  | command i c hc => simp [opBody_command hc, cmdTx_next, opBytes_command hc, hc, Bool.beq_eq_decide_eq]
  | init =>
    have hi : (initRead s).syncArmed = false := by simp [initRead]
    simp only [opBody, identify_next]
    split <;> simp [hi, commandByte, opBytes]
  | selch ch =>
    simp only [opBody, selectChannel_next]
    split <;> simp_all [wregTx_next, commandByte, opBytes]
  | rdsample acc => cases acc <;> simp [opBody, readSample_next, commandByte, opBytes]
  | config g r => simp [opBody, configure_next, wregTx_next, commandByte, opBytes]
  | syncwake => simp [opBody, syncWake, delay, cmdTx_next, commandByte, opBytes]
  | wait budget => simp [opBody, waitOp_next, commandByte, opBytes]
  | _ => simp [opBody, wregTx_next, rregTx_eq, commandByte, opBytes]

theorem muxChanging_wreg (id : BitVec 4) (val : Byte) : muxChanging (.wreg id val) = writesMux id 1 := by
  have h : ∀ id, (id == 1#4) = writesMux id 1 := by decide
  exact h id

theorem muxChanging_wregDev (id : BitVec 4) (data : List Byte) :
    muxChanging (.wregDev id data) = writesMux id data.length := rfl

/-- R35. -/
theorem opBody_syncPending (i : Instr) (s : State) :
    (opBody i s).syncPending = if muxChanging i then true
      else if commandByte i = some 0x00#8 then s.syncPending && !s.syncArmed
      else if commandByte i = some 0xFE#8 ∨ i = .syncwake then false
      else s.syncPending := by
  cases i using instr_cases with
  | command i c hc =>
    have hi : i ≠ .syncwake := by rintro rfl; cases hc
    simp [opBody_command hc, cmdTx_next, muxChanging_command hc, hc, hi, pendingAfter]
  | init =>
    simp only [opBody, identify_next]
    split <;> simp [initRead, commandByte, muxChanging]
  | wreg id val =>
    rw [muxChanging_wreg]
    by_cases h : writesMux id 1 = true <;> simp [opBody, wregTx_next, commandByte, h]
  | wregDev id data =>
    rw [muxChanging_wregDev]
    by_cases h : writesMux id data.length = true <;> simp [opBody, wregTx_next, commandByte, h]
  | selch ch =>
    simp only [opBody, selectChannel_next]
    split <;> simp_all [wregTx_next, commandByte, muxChanging, writesMux]
  | rdsample acc => cases acc <;> simp [opBody, readSample_next, commandByte, muxChanging]
  | config g r => simp [opBody, configure_next, wregTx_next, muxChanging, writesMux, configBurst]
  | syncwake => simp [opBody, syncWake, delay, cmdTx_next, commandByte, muxChanging, pendingAfter]
  | wait budget => simp [opBody, waitOp_next, commandByte, muxChanging]
  | _ => simp [opBody, rregTx_eq, commandByte, muxChanging]

/-- In IDLE, CONFIGURED and CHSEL the invariant asks nothing of syncPending and syncArmed. -/
theorem protocolInv_of_config {t : State} (hst : inConfigStates t.pstate = true)
    (hchan : t.pstate = .configured → t.cfgChan = 0#3) (hgain : t.cfgGain.toNat ≤ 6) : protocolInv t := by
  refine ⟨fun hp => ?_, fun hp => ?_, hchan, hgain⟩
  · rw [hp] at hst; cases hst
  · rw [hp] at hst; cases hst

/-- So there an op that keeps pstate and the shadows keeps the invariant. -/
theorem protocolInv_of_config_same {s t : State} (hs : protocolInv s) (hst : inConfigStates s.pstate = true)
    (h : t.pstate = s.pstate ∧ t.cfgChan = s.cfgChan ∧ t.cfgGain = s.cfgGain) : protocolInv t := by
  obtain ⟨-, -, hchan, hgain⟩ := hs
  obtain ⟨hp, hc, hg⟩ := h
  exact protocolInv_of_config (hp ▸ hst) (hp ▸ hc ▸ hchan) (hg ▸ hgain)

/-- And there an op that goes to IDLE or CHSEL and keeps the gain shadow does. -/
theorem protocolInv_of_target {s t : State} (hs : protocolInv s) (hp : t.pstate = .idle ∨ t.pstate = .chsel)
    (hg : t.cfgGain = s.cfgGain) : protocolInv t := by
  obtain ⟨-, -, -, hgain⟩ := hs
  rcases hp with hp | hp
  · exact protocolInv_of_config (by rw [hp]; rfl) (by simp [hp]) (hg ▸ hgain)
  · exact protocolInv_of_config (by rw [hp]; rfl) (by simp [hp]) (hg ▸ hgain)

/-- R34–R39: a command byte that is allowed keeps the protocol invariant. -/
theorem cmdTx_protocolInv {c : Byte} {s : State} (hs : protocolInv s)
    (hst : cmdStateOk c s.pstate s.syncPending = true) : protocolInv (cmdTx c s) := by
  unfold cmdStateOk at hst
  by_cases h3 : c = 0x03#8
  · have hpending : s.syncPending = false := by simp_all
    obtain ⟨-, -, -, hgain⟩ := hs
    simp [protocolInv, cmdTx_next, pstateAfter, pendingAfter, h3, hpending, hgain]
  by_cases hE : c = 0xFE#8
  · exact protocolInv_of_target hs (.inl (by simp [cmdTx_next, pstateAfter, hE])) (by simp [cmdTx_next])
  by_cases hF : c = 0x0F#8 ∧ s.pstate = .cont
  · exact protocolInv_of_target hs (.inr (by simp [cmdTx_next, pstateAfter, hF])) (by simp [cmdTx_next])
  · have hconfig : inConfigStates s.pstate = true := by
      cases hp : s.pstate <;> simp_all [pastReset, inConfigStates]
    exact protocolInv_of_config_same hs hconfig (by simp [cmdTx_next, pstateAfter, h3, hE, hF])

theorem body_protocolInv {s t : State} (hs : protocolInv s) (h : Body s t) : protocolInv t := by
  cases h with
  | wreg id data s _ _ hst => exact protocolInv_of_config_same hs hst (by simp [wregTx_next])
  | rreg id s _ hst => exact protocolInv_of_config_same hs hst (by simp [rregTx_eq])
  | cmd c s _ hst => exact cmdTx_protocolInv hs hst
  | init s hst =>
    rw [identify_next]
    split
    · exact protocolInv_of_target hs (.inl rfl) (by simp [initRead])
    · obtain ⟨-, hreset, -, hgain⟩ := hs
      simp [protocolInv, initRead, hst, hreset hst]
  | config g r s hg hst =>
    rw [configure_next]
    exact protocolInv_of_config rfl (fun _ => rfl) (by simpa [gainOk] using hg)
  | selch ch s hst =>
    rw [selectChannel_next]
    split
    · exact protocolInv_of_target hs (by simp) (by simp)
    · exact hs
  | syncwake s hst =>
    exact protocolInv_of_config_same hs hst (by simp [syncWake, delay, cmdTx_next, pstateAfter])
  | wait budget s => simpa [protocolInv, waitOp_next] using hs
  | rdsample acc s hst =>
    obtain ⟨hcont, -, -, hgain⟩ := hs
    cases acc <;> simp [protocolInv, readSample_next, hst, hcont hst, hgain]
  | stclr s => exact hs
  | stupd v s => exact hs
  | stfin s => exact hs

end Sys2Proof.Machine

namespace Sys2Proof.Proofs
open Sys2Proof.Machine

/-- Settles O52: every body keeps the invariant, and no other step touches its fields but reset. -/
theorem everyStepKeepsTheProtocol : Obligations.EveryStepKeepsTheProtocol := fun _ _ hs h =>
  step_keeps (Inv := protocolInv) (fun _ _ _ _ hs => hs) (fun _ => by simp [protocolInv, engineReset, State.reset])
    (fun _ _ _ _ hs => hs) (fun _ _ _ hs hb => body_protocolInv hs hb) hs h

/-- Settles O38: pstate after the body is the table's target. -/
theorem transitionsAreTheTable : Obligations.TransitionsAreTheTable := fun _ _ h =>
  ⟨_, exec_of_proceeds h, opBody_pstate (allowed_of_proceeds h)⟩

/-- Settles O39: the second part is the row of the command 0x00 in the rule for syncPending. -/
theorem syncArmedMeansLastWasSync : Obligations.SyncArmedMeansLastWasSync := by
  intro i s h
  refine ⟨_, exec_of_proceeds h, opBody_syncArmed i s, fun hc => ?_⟩
  rw [opBody_syncPending, muxChanging_command hc, hc]
  rfl

/-- Settles O40: the gate of continuous mode is the ORDER of an op that is not allowed. -/
theorem syncPendingFollowsMuxChanges : Obligations.SyncPendingFollowsMuxChanges := by
  refine ⟨fun i s h => ⟨_, exec_of_proceeds h, opBody_syncPending i s⟩, rfl, fun s hh hp => ?_⟩
  exact exec_of_not_allowed rfl hh ((operandsLegal_command rfl).2 (by decide)) (by simp [allowed, commandByte, hp])

end Sys2Proof.Proofs
end

section
/-! PROOFS. The data fields (R39, R40, R44). No transaction and no wait writes one, so `dataEffect` says for each op all
that it writes of them. -/

namespace Sys2Proof.Machine

/-- The fields that no transaction and no wait writes: shadows, last results, accumulator and snapshot. -/
structure SameData (s t : State) : Prop where
  cfgGain : s.cfgGain = t.cfgGain
  cfgRate : s.cfgRate = t.cfgRate
  cfgChan : s.cfgChan = t.cfgChan
  lastByte : s.lastByte = t.lastByte
  lastSample : s.lastSample = t.lastSample
  running : s.stCount = t.stCount ∧ s.stMean = t.stMean ∧ s.stM2 = t.stM2 ∧ s.stMin = t.stMin ∧ s.stMax = t.stMax
  snapshot : s.finCount = t.finCount ∧ s.finMean = t.finMean ∧ s.finVar = t.finVar ∧ s.finStdev = t.finStdev ∧
    s.finMin = t.finMin ∧ s.finMax = t.finMax ∧ s.finP2P = t.finP2P ∧ s.finNonEmpty = t.finNonEmpty ∧
    s.finVarValid = t.finVarValid

/-- R39, R40, R44: what the op writes of the data fields. -/
def dataEffect (i : Instr) (s : State) : State :=
  match i with
  | .init | .rreg _ | .rregDev _ => setLastByte (misoAt s 2) s
  | .config g r => setShadows g r 0#3 s
  | .selch ch => setShadows s.cfgGain s.cfgRate (if ch.toNat ≤ 7 then ch.setWidth 3 else s.cfgChan) s
  | .rdsample acc =>
    let t := setLastSample (decode24 (misoAt s 0) (misoAt s 1) (misoAt s 2)) s
    if acc then accumulate t.lastSample t else t
  | .stclr => clearStats s
  | .stupd v => accumulate (sext24 v) s
  | .stfin => finalize s
  | .wreg _ _ | .wregDev _ _ | .syncwake | .wait _ | .cmd _ | .wakeup | .rdata | .rdatac | .sdatac | .selfcal
  | .selfocal | .selfgcal | .sysocal | .sysgcal | .sync | .standby | .devReset => s

theorem opBody_sameData (i : Instr) (s : State) : SameData (opBody i s) (dataEffect i s) := by
  cases i with
  | init =>
    simp only [opBody, identify_next]
    split <;> constructor <;> simp [initRead, dataEffect]
  | config g r => constructor <;> simp [opBody, configure_next, wregTx_next, dataEffect]
  | selch ch =>
    simp only [opBody, selectChannel_next]
    split <;> constructor <;> simp_all [wregTx_next, dataEffect]
  | rdsample acc =>
    cases acc with
    | false => constructor <;> simp [opBody, readSample_next, dataEffect]
    | true =>
      constructor <;> simp [opBody, readSample_next, dataEffect, accumulate]
      exact ⟨rfl, rfl⟩
  | syncwake => constructor <;> simp [opBody, syncWake, delay, cmdTx_next, dataEffect]
  | wait budget => constructor <;> simp [opBody, waitOp_next, dataEffect]
  | stupd v => constructor <;> simp [opBody, dataEffect, accumulate]
  | stfin => constructor <;> simp [opBody, dataEffect, finalize]
  | _ => constructor <;> simp [opBody, wregTx_next, rregTx_eq, cmdTx_next, dataEffect]

end Sys2Proof.Machine

namespace Sys2Proof.Proofs
open Sys2Proof.Machine

/-- Settles O41: CONFIG and SELCH are the rows of dataEffect that write shadows. -/
theorem shadowsRecordConfigAndSelch : Obligations.ShadowsRecordConfigAndSelch := by
  refine ⟨fun i s h => ⟨_, exec_of_proceeds h, ?_⟩, rfl, rfl, rfl⟩
  have hd := opBody_sameData i s
  rw [hd.cfgGain, hd.cfgRate, hd.cfgChan]
  cases i with
  | rdsample acc => cases acc <;> rfl
  | _ => rfl

/-- Settles O42: INIT, RREG and RDSAMPLE are the rows of dataEffect that write last results. -/
theorem lastResultsWriters : Obligations.LastResultsWriters := by
  refine fun i s h => ⟨_, exec_of_proceeds h, ?_⟩
  have hd := opBody_sameData i s
  rw [hd.lastByte, hd.lastSample]
  cases i with
  | rdsample acc => cases acc <;> exact ⟨rfl, rfl⟩
  | _ => exact ⟨rfl, rfl⟩

/-- Settles O43: HALTED and a fault write no data field, and a body what dataEffect says. -/
theorem accumulatorWriters : Obligations.AccumulatorWriters := by
  intro i s t h
  rcases exec_cases h with rfl | rfl | ⟨k, rfl⟩
  · simp
  · have hd := opBody_sameData i s
    refine ⟨fun hclr hupd hacc => ?_, fun hfin => ?_⟩
    · cases i with
      | stclr => exact absurd rfl hclr
      | stupd v => exact absurd rfl (hupd v)
      | rdsample acc =>
        obtain rfl : acc = false := by simpa using hacc
        exact hd.running
      | _ => exact hd.running
    · cases i with
      | stfin => exact absurd rfl hfin
      | rdsample acc => cases acc <;> exact hd.snapshot
      | _ => exact hd.snapshot
  · simp

end Sys2Proof.Proofs
end

section
/-! PROOFS. The host's side (R31, R45–R48): one step of each host action, and the bits of the two packed result
registers. -/

namespace Sys2Proof.Machine

theorem step_cons {s : State} {a : HostAction} {rest : List HostAction} (h : s.program = a :: rest) :
    step s = hostAction a { s with program := rest } := by
  rw [step, hostStep, h]

/-- R45: indices 20 to 31 are reserved. -/
theorem resultRegister_reserved (s : State) {i : BitVec 5} (hi : 20 ≤ i.toNat) : resultRegister s i = 0#64 := by
  unfold resultRegister
  split
  case h_21 => rfl
  all_goals omega

/-! A bit of a register field is the field's bit inside it, and 0 below and above it. -/

theorem fieldAt64_inside {n lo k : Nat} (v : BitVec n) (hlo : lo ≤ k) (hk : k < lo + n) (h64 : lo + n ≤ 64) :
    (fieldAt64 lo v).getLsbD k = v.getLsbD (k - lo) := by
  simp only [fieldAt64, BitVec.getLsbD_shiftLeft, BitVec.getLsbD_setWidth]
  simp [show k < 64 by omega, show ¬ k < lo by omega, show k - lo < 64 by omega]

theorem fieldAt64_below {n lo k : Nat} (v : BitVec n) (hk : k < lo) : (fieldAt64 lo v).getLsbD k = false := by
  simp [fieldAt64, BitVec.getLsbD_shiftLeft, hk]

theorem fieldAt64_above {n lo k : Nat} (v : BitVec n) (hk : lo + n ≤ k) : (fieldAt64 lo v).getLsbD k = false := by
  simp [fieldAt64, BitVec.getLsbD_shiftLeft, BitVec.getLsbD_of_ge v (k - lo) (by omega)]

theorem halted_eq_decide (s : State) : halted s = decide (s.faults ≠ 0#5) := by
  rw [Bool.eq_iff_iff]
  simp [halted]

theorem statusRegister_getLsbD (s : State) (k : Nat) :
    (statusRegister s).getLsbD k = ((fieldAt64 0 (pstateCode s.pstate)).getLsbD k ||
      (fieldAt64 3 (BitVec.ofBool s.syncPending)).getLsbD k || (fieldAt64 4 (BitVec.ofBool s.syncArmed)).getLsbD k ||
      (fieldAt64 5 (BitVec.ofBool s.lastWaitTimeout)).getLsbD k ||
      (fieldAt64 6 (BitVec.ofBool s.finNonEmpty)).getLsbD k || (fieldAt64 7 (BitVec.ofBool s.finVarValid)).getLsbD k ||
      (fieldAt64 8 s.faults).getLsbD k || (fieldAt64 13 (BitVec.ofBool (halted s))).getLsbD k) := by
  simp only [statusRegister, BitVec.getLsbD_or]

theorem cfgRegister_getLsbD (s : State) (k : Nat) :
    (cfgRegister s).getLsbD k = ((fieldAt64 0 s.cfgGain).getLsbD k || (fieldAt64 4 s.cfgRate).getLsbD k ||
      (fieldAt64 8 s.cfgChan).getLsbD k) := by
  simp only [cfgRegister, BitVec.getLsbD_or]

end Sys2Proof.Machine

namespace Sys2Proof.Proofs
open Sys2Proof.Machine

/-- Settles O5: the presented word or frame decodes, so running it is exec of what was decoded. -/
theorem stepRunsThePresentedInstruction : Obligations.StepRunsThePresentedInstruction := by
  intro s e i rest hs hd
  rw [step_cons hs]
  cases e with
  | word w => simp only [presentAction, hostAction, runWord, hd]
  | frame bytes => simp only [presentAction, hostAction, runFrame, hd]

/-- Settles O10: a read's step is the update of the read port, and the reserved indices have no row of the map. -/
theorem hostReadsArePure : Obligations.HostReadsArePure := fun s _ _ hs =>
  ⟨step_cons hs, resultRegister_reserved s⟩

/-- Settles O11: each listed index is a row of the map, and the reserved ones have none. -/
theorem resultRegisterMap : Obligations.ResultRegisterMap := fun s =>
  ⟨rfl, rfl, rfl, rfl, rfl, rfl, rfl, rfl, rfl, rfl, rfl, rfl, rfl, rfl, rfl, rfl, rfl, rfl, rfl, rfl,
    fun _ hi => resultRegister_reserved s hi⟩

/-- Settles O12: each bit lies inside one field of the register, or above them all. -/
theorem statusRegisterBits : Obligations.StatusRegisterBits := by
  intro s
  refine ⟨?_, ?_, ?_, ?_, ?_, ?_, ?_, ?_, ?_, ?_, ?_, ?_, fun k hk => ?_⟩
  · refine Eq.trans (b := pstateCode s.pstate) ?_ (by cases s.pstate <;> rfl)
    ext k hk
    rw [BitVec.getElem_extractLsb', statusRegister_getLsbD]
    simp (disch := omega) only [fieldAt64_inside, fieldAt64_below, Bool.or_false]
    simp [hk]
  all_goals
    rw [statusRegister_getLsbD]
    simp (disch := omega) only [fieldAt64_inside, fieldAt64_below, fieldAt64_above, Bool.or_false, Bool.false_or,
      Nat.sub_self, BitVec.getLsbD_ofBool, halted_eq_decide, decide_true, Bool.true_and, Nat.reduceSub]

/-- Settles O13: as for STATUS, with the unassigned bit 3 between two fields. -/
theorem cfgRegisterBits : Obligations.CfgRegisterBits := by
  intro s
  refine ⟨?_, ?_, ?_, ?_, ?_, fun k hk => ?_⟩
  · ext k hk
    rw [BitVec.getElem_extractLsb', cfgRegister_getLsbD]
    simp (disch := omega) only [fieldAt64_inside, fieldAt64_below, Bool.or_false]
    simp [hk]
  · ext k hk
    rw [BitVec.getElem_extractLsb', cfgRegister_getLsbD]
    simp (disch := omega) only [fieldAt64_inside, fieldAt64_below, fieldAt64_above, Bool.or_false, Bool.false_or]
    simp [hk]
  · ext k hk
    rw [BitVec.getElem_extractLsb', cfgRegister_getLsbD]
    simp (disch := omega) only [fieldAt64_inside, fieldAt64_above, Bool.false_or]
    simp [hk]
  all_goals
    rw [cfgRegister_getLsbD]
    simp (disch := omega) only [fieldAt64_inside, fieldAt64_below, fieldAt64_above, Bool.or_false, Bool.false_or]

end Sys2Proof.Proofs
end

section
/-! PROOFS. R80: no op branches on a byte it does not keep. `SameButReplies` relates two states that differ only in the
replies of the device and in the trace that records them; every operation of a body that keeps no MISO byte preserves
it. -/

namespace Sys2Proof.Machine

/-- The states differ at most in the trace and in the MISO draws. -/
def SameButReplies (s t : State) : Prop :=
  ∃ evs miso n, t = { s with trace := evs, misoIn := miso, misoDraws := n }

theorem sameButReplies_draws (s : State) (miso : List Byte) (n : Nat) :
    SameButReplies s { s with misoIn := miso, misoDraws := n } := ⟨_, _, _, rfl⟩

namespace SameButReplies
variable {s t : State}

theorem eq_with (h : SameButReplies s t) :
    s = { t with trace := s.trace, misoIn := s.misoIn, misoDraws := s.misoDraws } := by
  obtain ⟨_, _, _, rfl⟩ := h; rfl

/-! Fields that an op reads are the same in both. -/

theorem params_eq (h : SameButReplies s t) : t.params = s.params := by
  obtain ⟨_, _, _, rfl⟩ := h; rfl

theorem shadows_eq (h : SameButReplies s t) : t.cfgGain = s.cfgGain ∧ t.cfgRate = s.cfgRate := by
  obtain ⟨_, _, _, rfl⟩ := h; exact ⟨rfl, rfl⟩

theorem halted_eq (h : SameButReplies s t) : halted t = halted s := by
  obtain ⟨_, _, _, rfl⟩ := h; rfl

/-! An update of the other fields keeps the relation. -/

theorem respond (h : SameButReplies s t) (r : Status) : SameButReplies (respond r s) (respond r t) := by
  obtain ⟨_, _, _, rfl⟩ := h; exact ⟨_, _, _, rfl⟩

theorem raise (h : SameButReplies s t) (c : FaultCode) (w : Word) : SameButReplies (raise c w s) (raise c w t) := by
  obtain ⟨_, _, _, rfl⟩ := h; exact ⟨_, _, _, rfl⟩

theorem setPState (h : SameButReplies s t) (p : PState) : SameButReplies (setPState p s) (setPState p t) := by
  obtain ⟨_, _, _, rfl⟩ := h; exact ⟨_, _, _, rfl⟩

theorem setShadows (h : SameButReplies s t) (g : BitVec 3) (r : BitVec 4) (ch : BitVec 3) :
    SameButReplies (setShadows g r ch s) (setShadows g r ch t) := by
  obtain ⟨_, _, _, rfl⟩ := h; exact ⟨_, _, _, rfl⟩

theorem delay (h : SameButReplies s t) (k : DelayKind) : SameButReplies (delay k s) (delay k t) := by
  obtain ⟨_, _, _, rfl⟩ := h; exact ⟨_, _, _, rfl⟩

/-! Transactions of sent bytes: the replies go to the trace alone (R80). -/

theorem wregTx (h : SameButReplies s t) (id : BitVec 4) (data : List Byte) :
    SameButReplies (wregTx id data s) (wregTx id data t) := by
  obtain ⟨_, _, _, rfl⟩ := h
  simp only [wregTx_next]
  exact ⟨_, _, _, rfl⟩

theorem cmdTx (h : SameButReplies s t) (c : Byte) : SameButReplies (cmdTx c s) (cmdTx c t) := by
  obtain ⟨_, _, _, rfl⟩ := h
  simp only [cmdTx_next]
  exact ⟨_, _, _, rfl⟩

/-! A ready wait looks at DRDY_N only. -/

theorem firstReady_eq (h : SameButReplies s t) (budget : Nat) : firstReady t budget = firstReady s budget := by
  obtain ⟨_, _, _, rfl⟩ := h; rfl

theorem waitedStatus_eq (h : SameButReplies s t) (budget : Nat) : waitedStatus budget t = waitedStatus budget s := by
  rw [waitedStatus, h.firstReady_eq, waitedStatus]

theorem waited (h : SameButReplies s t) (budget : Nat) : SameButReplies (waited budget s) (waited budget t) := by
  have hready := h.firstReady_eq budget
  obtain ⟨_, _, _, rfl⟩ := h
  unfold Machine.waited
  rw [hready]
  cases firstReady s budget <;> exact ⟨_, _, _, rfl⟩

/-- R80, for the body of every op that keeps no MISO byte. -/
theorem opBody (h : SameButReplies s t) {i : Instr} (hinit : i ≠ .init) (hrreg : ∀ id, i ≠ .rreg id)
    (hrregDev : ∀ id, i ≠ .rregDev id) (hsample : ∀ acc, i ≠ .rdsample acc) :
    SameButReplies (opBody i s) (opBody i t) := by
  cases i using instr_cases with
  | command i c hc =>
    rw [opBody_command hc, opBody_command hc]
    exact (h.cmdTx c).respond .ok
  | init => exact absurd rfl hinit
  | rreg id => exact absurd rfl (hrreg id)
  | rregDev id => exact absurd rfl (hrregDev id)
  | rdsample acc => exact absurd rfl (hsample acc)
  | wreg id val => exact (h.wregTx id [val]).respond .ok
  | wregDev id data => exact (h.wregTx id data).respond .ok
  | config g r =>
    simp only [Machine.opBody, configure_next, h.params_eq, h.waitedStatus_eq]
    exact ((((h.waited _).wregTx 0#4 _).setShadows g r 0#3).setPState .configured).respond _
  | selch ch =>
    simp only [Machine.opBody, selectChannel_next, h.shadows_eq]
    split
    · exact (((h.wregTx 1#4 _).setShadows _ _ _).setPState .chsel).respond .ok
    · exact h.respond .ok
  | syncwake => exact ((((h.cmdTx 0xFC#8).delay .syncGap).cmdTx 0x00#8).delay .wakeGap).respond .ok
  | wait budget =>
    simp only [Machine.opBody, waitOp_next, h.waitedStatus_eq]
    exact (h.waited _).respond _
  | stclr | stupd v | stfin => obtain ⟨_, _, _, rfl⟩ := h; exact ⟨_, _, _, rfl⟩

/-- R267: the checks decide the same in both. -/
theorem checked (h : SameButReplies s t) (w : Word) (argOk stateOk roomOk : Bool) {body : State → State}
    (hbody : SameButReplies (body s) (body t)) :
    SameButReplies (checked w argOk stateOk roomOk body s) (checked w argOk stateOk roomOk body t) := by
  unfold Machine.checked
  rw [h.halted_eq]
  split_ifs
  · exact h.respond .halted
  · exact hbody
  · exact h.raise .countOvf w
  · exact h.raise .order w
  · exact h.raise .illegalArg w

end SameButReplies

end Sys2Proof.Machine

namespace Sys2Proof.Proofs
open Sys2Proof.Machine

/-- Settles O44: the checks of the two runs are the same, and the bodies leave states that differ as the two starts
do. -/
theorem writeRepliesAreIgnored : Obligations.WriteRepliesAreIgnored := by
  classical
  intro i s t miso n hinit hrreg hrregDev hsample h
  have hw := wellFormed_of_exec h
  have hstart := sameButReplies_draws s miso n
  rw [exec_eq_checked hw] at h
  injection h with h
  subst h
  exact ⟨_, exec_eq_checked hw _,
    (hstart.checked _ _ _ _ (hstart.opBody hinit hrreg hrregDev hsample)).eq_with⟩

end Sys2Proof.Proofs
end

section
/-! PROOFS. The two encodings (R100–R122). Host words: what the decoder extracts from fields that the encoder wrote, and
how a word is put together again from its fields and its reserved zeros. Frames: the decoder reads exactly the encoding
at the head of the bytes. The words of the opcode map are then those of the table's rows. -/

namespace Sys2Proof

/-! ### Fields of a host word -/

@[simp] theorem hostWord_extract_opcode (opc : Byte) {f : Word} (hf : f.extractLsb' 24 8 = 0#8) :
    (hostWord opc f).extractLsb' 24 8 = opc := by
  refine hostWord_opcode opc f fun i hi => ?_
  by_cases h : i < 32
  · have hbit := congrArg (BitVec.getLsbD · (i - 24)) hf
    simpa [show i - 24 < 8 by omega, show 24 + (i - 24) = i by omega] using hbit
  · exact BitVec.getLsbD_of_ge _ _ (by omega)

@[simp] theorem fieldAt_extract_same {n lo : Nat} (v : BitVec n) (h : lo + n ≤ 32) :
    (fieldAt lo v).extractLsb' lo n = v := by
  apply BitVec.eq_of_getLsbD_eq
  intro i hi
  rw [BitVec.getLsbD_extractLsb', fieldAt_getLsbD]
  simp [hi, show lo + i < 32 by omega]

@[simp] theorem fieldAt_extract_disjoint {n lo lo' n' : Nat} (v : BitVec n) (h : lo' + n' ≤ lo ∨ lo + n ≤ lo') :
    (fieldAt lo v).extractLsb' lo' n' = 0#n' := by
  apply BitVec.eq_of_getLsbD_eq
  intro i hi
  rw [BitVec.getLsbD_extractLsb', fieldAt_getLsbD]
  rcases h with h | h
  · simp [show ¬ lo ≤ lo' + i by omega]
  · simp [BitVec.getLsbD_of_ge v (lo' + i - lo) (by omega)]

theorem fieldAt_zero (lo n : Nat) : fieldAt lo 0#n = 0#32 := by simp [fieldAt]

/-- A field of m + n bits is its upper n bits and its lower m bits. -/
theorem fieldAt_split (w : Word) (lo m n : Nat) :
    fieldAt lo (w.extractLsb' lo (m + n)) =
      fieldAt (lo + m) (w.extractLsb' (lo + m) n) ||| fieldAt lo (w.extractLsb' lo m) := by
  apply BitVec.eq_of_getLsbD_eq
  intro i hi
  simp only [BitVec.getLsbD_or, fieldAt_getLsbD, BitVec.getLsbD_extractLsb', hi, decide_true, Bool.true_and]
  by_cases hlo : lo ≤ i
  · by_cases hm : lo + m ≤ i
    · have hwidth : i - (lo + m) < n ↔ i - lo < m + n := by omega
      simp [hlo, hm, hwidth, show ¬ i - lo < m by omega]
    · simp [hlo, hm, show i - lo < m by omega, show i - lo < m + n by omega]
  · simp [hlo, show ¬ lo + m ≤ i by omega]

/-- R121: reserved bits above a field are 0. -/
theorem fieldAt_reserved_above {w : Word} {lo m n : Nat} (h : w.extractLsb' (lo + m) n = 0#n) :
    fieldAt lo (w.extractLsb' lo (m + n)) = fieldAt lo (w.extractLsb' lo m) := by
  rw [fieldAt_split, h, fieldAt_zero, BitVec.zero_or]

/-- R121: reserved bits below a field are 0. -/
theorem fieldAt_reserved_below {w : Word} {lo m n : Nat} (h : w.extractLsb' lo m = 0#m) :
    fieldAt lo (w.extractLsb' lo (m + n)) = fieldAt (lo + m) (w.extractLsb' (lo + m) n) := by
  rw [fieldAt_split, h, fieldAt_zero, BitVec.or_zero]

/-- R110: a word is its opcode and its operand fields. -/
theorem hostWord_of_fields {w f : Word} {opc : Byte} (ho : w.extractLsb' 24 8 = opc)
    (hf : fieldAt 0 (w.extractLsb' 0 24) = f) : hostWord opc f = w := by
  rw [← ho, ← hf, hostWord_split]

theorem ofBool_getLsbD_zero (w : Word) : BitVec.ofBool (w.getLsbD 0) = w.extractLsb' 0 1 := by
  apply BitVec.eq_of_getLsbD_eq
  intro i hi
  obtain rfl : i = 0 := by omega
  simp

/-! ### Host words -/

theorem ifReservedZero_ok {b : Bool} {i j : Instr} : ifReservedZero b i = .ok j ↔ b = true ∧ i = j := by
  cases b <;> simp [ifReservedZero]

/-- R112–R120, R122: each extraction of the decoder meets a field of the format or its zeros. -/
theorem decodeWord_of_encode {i : Instr} {w : Word} (h : encode i = .word w) : decodeWord w = .ok i := by
  cases i with
  | rdsample acc => cases h; cases acc <;> rfl
  | _ =>
    cases h <;>
      simp [wregWord, rregWord, cmdWord, decodeWord, decodeFields, ifReservedZero, hostWord_field,
        BitVec.extractLsb'_or]

/-- R121, R122: with its reserved bits 0, a word is its opcode and the fields that the decoder reads. -/
theorem encode_of_decodeWord {i : Instr} {w : Word} (h : decodeWord w = .ok i) : encode i = .word w := by
  unfold decodeWord decodeFields at h
  split at h
  all_goals
    rename_i ho
    simp only [ifReservedZero_ok, Bool.and_eq_true, beq_iff_eq, Except.ok.injEq, reduceCtorEq] at h
  -- INIT, SYNCWAKE, STCLR, STFIN
  case h_1 | h_7 | h_10 | h_12 =>
    obtain ⟨hnone, rfl⟩ := h
    exact congrArg Encoded.word (hostWord_of_fields ho (by rw [hnone, fieldAt_zero]))
  -- WREG
  case h_2 =>
    obtain ⟨⟨habove, hmid⟩, rfl⟩ := h
    refine congrArg Encoded.word (hostWord_of_fields ho ?_)
    rw [fieldAt_split w 0 8 16, fieldAt_reserved_below (lo := 0 + 8) (m := 8) (n := 8) hmid,
      fieldAt_reserved_above (lo := 16) (m := 4) (n := 4) habove]
  -- RREG
  case h_3 =>
    obtain ⟨⟨habove, hbelow⟩, rfl⟩ := h
    refine congrArg Encoded.word (hostWord_of_fields ho ?_)
    rw [fieldAt_reserved_below (n := 8) hbelow, fieldAt_reserved_above (lo := 0 + 16) (m := 4) (n := 4) habove]
  -- CMD
  case h_4 =>
    obtain ⟨habove, rfl⟩ := h
    exact congrArg Encoded.word (hostWord_of_fields ho (fieldAt_reserved_above (lo := 0) (m := 8) (n := 16) habove))
  -- CONFIG
  case h_5 =>
    obtain ⟨⟨habove, hmid⟩, rfl⟩ := h
    refine congrArg Encoded.word (hostWord_of_fields ho ?_)
    rw [fieldAt_split w 0 8 16, fieldAt_reserved_above (lo := 0 + 8) (m := 3) (n := 13) habove,
      fieldAt_reserved_above (lo := 0) (m := 4) (n := 4) hmid]
  -- SELCH
  case h_6 =>
    obtain ⟨habove, rfl⟩ := h
    exact congrArg Encoded.word (hostWord_of_fields ho (fieldAt_reserved_above (lo := 0) (m := 4) (n := 20) habove))
  -- WAIT, STUPD
  case h_8 | h_11 =>
    subst h
    exact congrArg Encoded.word (hostWord_of_fields ho rfl)
  -- RDSAMPLE
  case h_9 =>
    obtain ⟨habove, rfl⟩ := h
    refine congrArg Encoded.word (hostWord_of_fields ho ?_)
    rw [ofBool_getLsbD_zero]
    exact fieldAt_reserved_above (lo := 0) (m := 1) (n := 23) habove

theorem requestWord_of_encode {i : Instr} {w : Word} (h : encode i = .word w) : requestWord i = w := by
  cases i with
  | _ => cases h <;> rfl

theorem wellFormed_of_encode_word {i : Instr} {w : Word} (h : encode i = .word w) : i.wellFormed = true := by
  cases i with
  | wregDev id data => cases h
  | _ => rfl

/-! ### Device command frames -/

theorem rregByte_of_high {b : Byte} (h : b.extractLsb' 4 4 = 0x1#4) : rregByte (b.extractLsb' 0 4) = b := by
  revert b
  decide

theorem wregByte_of_high {b : Byte} (h : b.extractLsb' 4 4 = 0x5#4) : wregByte (b.extractLsb' 0 4) = b := by
  revert b
  decide

theorem wellFormed_wregDev (id : BitVec 4) (data : List Byte) :
    (Instr.wregDev id data).wellFormed = true ↔ 1 ≤ data.length ∧ data.length ≤ 4 := by
  simp [Instr.wellFormed, burstLengthOk]

/-- R101, R102: from bytes that begin with an instruction's frame, the decoder reads it and leaves the others. -/
theorem decodeFrame_of_encode {i : Instr} {head : List Byte} (h : encode i = .frame head) (hw : i.wellFormed = true)
    (rest : List Byte) : decodeFrame (head ++ rest) = .ok (i, rest) := by
  cases i with
  | rregDev id => cases h; simp [decodeFrame, decodeReadTail, rregByte_high, rregByte_low]
  | wregDev id data =>
    cases h
    obtain ⟨hone, hfour⟩ := (wellFormed_wregDev id data).1 hw
    have hcount : (countByte data.length).toNat = data.length - 1 := countByte_toNat (by omega)
    have hlen : data.length - 1 + 1 = data.length := by omega
    have hle : ¬ 3 < data.length - 1 := by omega
    simp [decodeFrame, decodeWriteTail, wregByte_high, wregByte_low, hcount, hlen, hle]
  | _ => cases h <;> rfl

/-- R102: one command byte at a time. -/
theorem encode_of_decodeSingle (b : Byte) :
    ∀ i ∈ (decodeSingle b).toOption, encode i = .frame [b] ∧ i.wellFormed = true := by
  revert b
  decide

theorem decodeReadTail_ok {id : BitVec 4} {tail rest : List Byte} {i : Instr}
    (h : decodeReadTail id tail = .ok (i, rest)) : i = .rregDev id ∧ tail = 0x00#8 :: rest := by
  unfold decodeReadTail at h
  split at h
  · cases h
  · split at h
    · cases h; subst_vars; exact ⟨rfl, rfl⟩
    · cases h

theorem decodeWriteTail_ok {id : BitVec 4} {tail rest : List Byte} {i : Instr}
    (h : decodeWriteTail id tail = .ok (i, rest)) :
    ∃ data, i = .wregDev id data ∧ i.wellFormed = true ∧ tail = countByte data.length :: data ++ rest := by
  unfold decodeWriteTail at h
  split at h
  · cases h
  · rename_i n bs
    split at h
    · cases h
    · split at h
      · cases h
      · cases h
        have hlen : (bs.take (n.toNat + 1)).length = n.toNat + 1 := by rw [List.length_take]; omega
        refine ⟨_, rfl, (wellFormed_wregDev _ _).2 (by omega), ?_⟩
        simp [hlen, countByte]

/-- R100–R102: what the decoder reads at the head of the bytes is the encoding of a well-formed instruction. -/
theorem encode_of_decodeFrame {bytes rest : List Byte} {i : Instr} (h : decodeFrame bytes = .ok (i, rest)) :
    ∃ head, bytes = head ++ rest ∧ encode i = .frame head ∧ i.wellFormed = true := by
  unfold decodeFrame at h
  split at h
  · cases h
  · rename_i b tail
    split at h
    · obtain ⟨rfl, rfl⟩ := decodeReadTail_ok h
      exact ⟨[b, 0x00#8], rfl, by rw [encode, rregByte_of_high ‹_›], rfl⟩
    · split at h
      · obtain ⟨data, rfl, hw, rfl⟩ := decodeWriteTail_ok h
        exact ⟨b :: countByte data.length :: data, rfl, by rw [encode, wregByte_of_high ‹_›], hw⟩
      · split at h
        · rename_i hsingle
          cases h
          exact ⟨[b], rfl, encode_of_decodeSingle b i (by rw [hsingle]; rfl)⟩
        · cases h

/-- R100: a frame holds one command and no byte after it. -/
theorem decode_frame_ok {bytes : List Byte} {i : Instr} :
    decode (.frame bytes) = .ok i ↔ decodeFrame bytes = .ok (i, []) := by
  simp only [decode]
  split <;> simp_all

end Sys2Proof

namespace Sys2Proof.Machine

/-! ### The rows of the opcode table -/

theorem legalWord_iff (w : Word) : legalWord w = true ↔ ∃ row ∈ hostRows, w &&& row.1 = row.2 := by
  simp [legalWord]

theorem tableRow_mem_hostRows {i : Instr} {w : Word} (h : encode i = .word w) :
    ∃ row ∈ hostRows, tableRow i = (row.1.toNat, row.2.toNat) := by
  cases i with
  | _ => cases h <;> simp [tableRow, hostRows]

/-- The laws of Laws/PerInstr.lean for the host ops, as one. -/
theorem tableRow_meets {i : Instr} {w : Word} (h : encode i = .word w) :
    w.toNat &&& (tableRow i).1 = (tableRow i).2 := by
  cases i with
  | init => cases h; exact Laws.TableRow.init rfl
  | wreg id val => cases h; exact Laws.TableRow.wreg id val rfl
  | rreg id => cases h; exact Laws.TableRow.rreg id rfl
  | cmd c => cases h; exact Laws.TableRow.cmd c rfl
  | config g r => cases h; exact Laws.TableRow.config g r rfl
  | selch ch => cases h; exact Laws.TableRow.selch ch rfl
  | syncwake => cases h; exact Laws.TableRow.syncwake rfl
  | wait budget => cases h; exact Laws.TableRow.wait budget rfl
  | rdsample acc => cases h; exact Laws.TableRow.rdsample acc rfl
  | stclr => cases h; exact Laws.TableRow.stclr rfl
  | stupd v => cases h; exact Laws.TableRow.stupd v rfl
  | stfin => cases h; exact Laws.TableRow.stfin rfl
  | _ => cases h

theorem legalWord_of_encode {i : Instr} {w : Word} (h : encode i = .word w) : legalWord w = true := by
  obtain ⟨row, hmem, hrow⟩ := tableRow_mem_hostRows h
  have hmeets := tableRow_meets h
  rw [hrow] at hmeets
  exact (legalWord_iff w).2 ⟨row, hmem, BitVec.eq_of_toNat_eq (by simpa using hmeets)⟩

/-- The bits that a mask keeps are those of the match. -/
theorem extract_of_masked {w m v : Word} (h : w &&& m = v) {lo n : Nat} (hm : m.extractLsb' lo n = BitVec.allOnes n) :
    w.extractLsb' lo n = v.extractLsb' lo n := by
  rw [← h, BitVec.extractLsb'_and, hm, BitVec.and_allOnes]

/-- R121: the mask of a row covers the opcode and the reserved bits of its format. -/
theorem decodeWord_of_row {w : Word} : ∀ row ∈ hostRows, w &&& row.1 = row.2 → ∃ i, decodeWord w = .ok i := by
  intro row hmem hrow
  fin_cases hmem
  all_goals
    simp only at hrow
    simp (disch := decide) [decodeWord, decodeFields, extract_of_masked hrow, ifReservedZero]

end Sys2Proof.Machine

namespace Sys2Proof.Proofs
open Sys2Proof.Machine

/-- Settles O1: by the two encodings, host words and frames. -/
theorem everyInstructionDecodesBack : Obligations.EveryInstructionDecodesBack := by
  intro i hw
  cases he : encode i with
  | word w => exact decodeWord_of_encode he
  | frame bytes =>
    refine decode_frame_ok.2 ?_
    simpa using decodeFrame_of_encode he hw []

/-- Settles O2: a word is put together from what was read, and a frame is its command with no byte left. -/
theorem acceptedPresentationIsTheEncoding : Obligations.AcceptedPresentationIsTheEncoding := by
  refine ⟨fun e i h => ?_, fun w i h => requestWord_of_encode (encode_of_decodeWord h)⟩
  cases e with
  | word w =>
    have he := encode_of_decodeWord h
    exact ⟨he, wellFormed_of_encode_word he⟩
  | frame bytes =>
    obtain ⟨head, rfl, he, hw⟩ := encode_of_decodeFrame (decode_frame_ok.1 h)
    exact ⟨by simpa using he, hw⟩

/-- Settles O3: what decodes is an encoding, which meets its row; and a row's mask leaves only operand bits open. -/
theorem legalWordsAreTheTableRows : Obligations.LegalWordsAreTheTableRows := by
  refine fun w => ⟨fun ⟨i, h⟩ => legalWord_of_encode (encode_of_decodeWord h), fun h => ?_⟩
  obtain ⟨row, hmem, hrow⟩ := (legalWord_iff w).1 h
  exact decodeWord_of_row row hmem hrow

/-- Settles O4: by running the decoder on the fourteen presentations. -/
theorem writtenOutWordsDecode : Obligations.WrittenOutWordsDecode := by
  unfold Obligations.WrittenOutWordsDecode
  decide

end Sys2Proof.Proofs
end

section
/-! PROOFS. The exact bus events of every op (R103): the run on the bus that the body of each op is, with its events as
`opEvents` lists them, and their number of byte transfers. -/

namespace Sys2Proof.Machine

/-! ### Events seen from an earlier state -/

theorem frameEvents_drop {s t : State} (n : Nat) (hin : t.misoIn = s.misoIn.drop n)
    (hdraws : t.misoDraws = s.misoDraws + n) (k : Nat) (bs : List Byte) :
    frameEvents t k bs = frameEvents s (n + k) bs := by
  rw [frameEvents, xferEvents_drop n hin hdraws, frameEvents]

theorem frameEvents_waited (budget : Nat) (s : State) (k : Nat) (bs : List Byte) :
    frameEvents (waited budget s) k bs = frameEvents s k bs := by
  simpa using frameEvents_drop (s := s) (t := waited budget s) 0 (by simp) (by simp) k bs

theorem frameEvents_delay (d : DelayKind) (s : State) (k : Nat) (bs : List Byte) :
    frameEvents (delay d s) k bs = frameEvents s k bs := by
  simpa using frameEvents_drop (s := s) (t := delay d s) 0 rfl rfl k bs

theorem frameEvents_cmdTx (c : Byte) (s : State) (k : Nat) (bs : List Byte) :
    frameEvents (cmdTx c s) k bs = frameEvents s (1 + k) bs :=
  frameEvents_drop 1 (by simp [cmdTx_next, transferred]) (by simp [cmdTx_next, transferred]) k bs

/-! ### The events of an op -/

theorem opEvents_command {i : Instr} {c : Byte} (hc : commandByte i = some c) (s : State) :
    opEvents i s = frameEvents s 0 [c] := by
  cases i <;> cases hc <;> rfl

/-- R182: the reply to the second command is the second draw. -/
theorem syncWake_busRun (s : State) : BusRun (opEvents .syncwake s) s (syncWake s) := by
  have hrun := (cmdTx_delay_busRun 0xFC#8 (k := .syncGap) (by decide) s).trans
    (cmdTx_delay_busRun 0x00#8 (k := .wakeGap) (by decide) _)
  rw [frameEvents_delay, frameEvents_cmdTx, ← List.append_assoc] at hrun
  exact hrun.congr rfl

/-- R174: the bytes of the CONFIG burst, header included. -/
theorem configFrame_eq (p : Params) (g : BitVec 3) (r : BitVec 4) :
    wregByte 0#4 :: countByte (configBurst p g r).length :: configBurst p g r =
      [0x50#8, 0x03#8, 0x06#8, 0x08#8, g.setWidth 8, p.drateCode[r.toNat]] := rfl

/-- R103. -/
theorem opBody_busRun (i : Instr) (s : State) : BusRun (opEvents i s) s (opBody i s) := by
  cases i using instr_cases with
  | command i c hc =>
    rw [opEvents_command hc, opBody_command hc]
    exact (cmdTx_busRun c s).congr rfl
  | init =>
    have hread := rregTx_busRun 0#4 (waited s.params.waitBudget.toNat s)
    rw [readEvents_waited, rregTx_eq, readEvents_waited] at hread
    have hrun := (waited_busRun s.params.waitBudget.toNat s).trans hread
    rw [opBody, identify_next]
    split <;> exact hrun.congr rfl
  | wreg id val => exact (wregTx_busRun id [val] s).congr rfl
  | wregDev id data => exact (wregTx_busRun id data s).congr rfl
  | rreg id => exact (rregTx_busRun id s).congr rfl
  | rregDev id => exact (rregTx_busRun id s).congr rfl
  | config g r =>
    have hwrite := wregTx_busRun 0#4 (configBurst s.params g r) (waited s.params.waitBudget.toNat s)
    rw [frameEvents_waited, configFrame_eq] at hwrite
    rw [opBody, configure_next, opEvents]
    exact ((waited_busRun s.params.waitBudget.toNat s).trans hwrite).congr (by simp [busFields])
  | selch ch =>
    rw [opBody, selectChannel_next, opEvents]
    split
    · exact (wregTx_busRun 1#4 [muxByte ch] s).congr rfl
    · exact (BusRun.refl s).congr rfl
  | syncwake => exact syncWake_busRun s
  | wait budget =>
    rw [opBody, waitOp_next]
    exact (waited_busRun budget.toNat s).congr rfl
  | rdsample acc =>
    rw [opBody, readSample]
    cases acc <;> exact (sampleTx_busRun s).congr rfl
  | stclr | stupd v | stfin =>
    rw [opBody, opEvents]
    exact (BusRun.refl s).congr rfl

theorem countXfers_frameEvents (s : State) (k : Nat) (bs : List Byte) :
    countXfers (frameEvents s k bs) = bs.length := by
  obtain ⟨-, hx, -⟩ := xferEvents_bus s k 0 bs
  simpa [frameEvents, countXfers] using hx

theorem countXfers_waitEvents (s : State) (budget : Nat) : countXfers (waitEvents s budget) = 0 := by
  obtain ⟨-, hx, -⟩ := waitEvents_whole s budget
  exact hx

/-- R103, last column. -/
theorem countXfers_opEvents (i : Instr) (s : State) : countXfers (opEvents i s) = opBytes i := by
  cases i using instr_cases with
  | command i c hc => rw [opEvents_command hc, countXfers_frameEvents, opBytes_command hc]; rfl
  | init => rw [opEvents, countXfers_append, countXfers_waitEvents]; rfl
  | config g r => rw [opEvents, countXfers_append, countXfers_waitEvents, countXfers_frameEvents]; rfl
  | selch ch =>
    rw [opEvents, opBytes]
    split
    · exact countXfers_frameEvents s 0 _
    · rfl
  | wait budget => exact countXfers_waitEvents s budget.toNat
  | wregDev id data => exact countXfers_frameEvents s 0 _
  | _ => rfl

end Sys2Proof.Machine

namespace Sys2Proof.Proofs
open Sys2Proof.Machine

/-- Settles O20: an op that passes its checks is its body, which is a run on the bus of the listed events. -/
theorem busEventsOfEveryOp : Obligations.BusEventsOfEveryOp := by
  intro i s h
  have hrun := opBody_busRun i s
  refine ⟨_, exec_of_proceeds h, hrun.trace, ?_⟩
  rw [hrun.xfers, countXfers_opEvents]

end Sys2Proof.Proofs
end

section
/-! PROOFS. The statistics (R205, R231–R233, R235): each write of a data field keeps `statsInv`, and `opBody_sameData`
says that no op writes anything else of it. -/

namespace Sys2Proof.Machine

theorem sext24_toInt (v : BitVec 24) : (sext24 v).toInt = v.toInt :=
  BitVec.toInt_signExtend_of_le (by omega)

/-- R120, R205. -/
theorem sext24_range (v : BitVec 24) : sampleRange (sext24 v) := by
  have hlow := BitVec.le_toInt v
  have hhigh := BitVec.toInt_lt (x := v)
  rw [sampleRange, sext24_toInt]
  omega

/-- The invariant is about data fields only. -/
theorem SameData.statsInv {s t : State} (h : SameData s t) (ht : statsInv t) : statsInv s := by
  obtain ⟨hcount, hmean, hm2, hmin, hmax⟩ := h.running
  obtain ⟨hfinCount, -, -, -, hfinMin, hfinMax, hp2p, hnonEmpty, hvarValid⟩ := h.snapshot
  unfold Machine.statsInv
  rw [h.lastSample, hcount, hmean, hm2, hmin, hmax, hfinCount, hfinMin, hfinMax, hp2p, hnonEmpty, hvarValid]
  exact ht

theorem setLastSample_statsInv {s : State} {x : Word} (hs : statsInv s) (hx : sampleRange x) :
    statsInv (setLastSample x s) := by
  obtain ⟨-, hrest⟩ := hs
  exact ⟨hx, hrest⟩

/-- R231: with room for one more sample the count does not come back to 0, and minimum and maximum stay samples in
order. -/
theorem accumulate_statsInv {s : State} {x : Word} (hs : statsInv s) (hroom : countHasRoom s = true)
    (hx : sampleRange x) : statsInv (accumulate x s) := by
  obtain ⟨hsample, hmin, hmax, hle, -, hfin⟩ := hs
  have hcount : s.stCount + 1#32 ≠ 0#32 := by
    have := countHasRoom_iff s |>.1 hroom
    bv_omega
  have hmin' : sampleRange (accumulate x s).stMin := by
    rw [accumulate_stMin]
    split_ifs <;> assumption
  have hmax' : sampleRange (accumulate x s).stMax := by
    rw [accumulate_stMax]
    split_ifs <;> assumption
  have hle' : (accumulate x s).stMin.toInt ≤ (accumulate x s).stMax.toInt := by
    simp only [accumulate_stMin, accumulate_stMax, BitVec.slt_iff_toInt_lt]
    split_ifs <;> omega
  exact ⟨hsample, hmin', hmax', hle', fun h => absurd h hcount, hfin⟩

/-- R235: the difference of two samples does not overflow. -/
theorem toInt_sub_of_samples {x y : Word} (hx : sampleRange x) (hy : sampleRange y) :
    (x - y).toInt = x.toInt - y.toInt := by
  unfold sampleRange at hx hy
  rw [BitVec.toInt_sub]
  exact Int.bmod_eq_of_le (by omega) (by omega)

/-- R232. -/
theorem finalize_statsInv {s : State} (hs : statsInv s) : statsInv (finalize s) := by
  obtain ⟨hsample, hmin, hmax, hle, hzero, -⟩ := hs
  have hp2p : (finalize s).finP2P.toInt = s.stMax.toInt - s.stMin.toInt := toInt_sub_of_samples hmax hmin
  obtain ⟨hlow, -⟩ := id hmin
  obtain ⟨-, hhigh⟩ := id hmax
  exact ⟨hsample, hmin, hmax, hle, hzero, hmin, hmax, hp2p, by omega, by omega, rfl, rfl⟩

/-- R233. -/
theorem clearStats_statsInv {s : State} (hs : statsInv s) : statsInv (clearStats s) := by
  obtain ⟨hsample, -, -, -, -, hfin⟩ := hs
  have hzero : sampleRange 0#32 := ⟨by decide, by decide⟩
  exact ⟨hsample, hzero, hzero, le_rfl, fun _ => ⟨rfl, rfl, rfl, rfl⟩, hfin⟩

theorem body_statsInv {s t : State} (hs : statsInv s) (h : Body s t) : statsInv t := by
  cases h with
  | wreg id data s => exact (opBody_sameData (.wregDev id data) s).statsInv hs
  | rreg id s => exact (opBody_sameData (.rreg id) s).statsInv hs
  | cmd c s => exact (opBody_sameData (.cmd c) s).statsInv hs
  | init s => exact (opBody_sameData .init s).statsInv hs
  | config g r s => exact (opBody_sameData (.config g r) s).statsInv hs
  | selch ch s => exact (opBody_sameData (.selch ch) s).statsInv hs
  | syncwake s => exact (opBody_sameData .syncwake s).statsInv hs
  | wait budget s => exact (opBody_sameData (.wait budget) s).statsInv hs
  | rdsample acc s _ hroom =>
    refine (opBody_sameData (.rdsample acc) s).statsInv ?_
    have hx := sext24_range (misoAt s 0 ++ misoAt s 1 ++ misoAt s 2)
    have hread := setLastSample_statsInv hs hx
    cases acc with
    | false => exact hread
    | true => exact accumulate_statsInv hread (hroom rfl) hx
  | stclr s => exact (opBody_sameData .stclr s).statsInv (clearStats_statsInv hs)
  | stupd v s hroom =>
    exact (opBody_sameData (.stupd v) s).statsInv (accumulate_statsInv hs hroom (sext24_range v))
  | stfin s => exact (opBody_sameData .stfin s).statsInv (finalize_statsInv hs)

end Sys2Proof.Machine

namespace Sys2Proof.Proofs
open Sys2Proof.Machine

/-- Settles O54: every body keeps the invariant, and no other step touches its fields but reset. -/
theorem everyStepKeepsTheStatistics : Obligations.EveryStepKeepsTheStatistics := fun _ _ hs h =>
  step_keeps (Inv := statsInv) (fun _ _ _ _ hs => hs)
    (fun _ => by simp [statsInv, sampleRange, engineReset, State.reset]) (fun _ _ _ _ hs => hs)
    (fun _ _ _ hs hb => body_statsInv hs hb) hs h

end Sys2Proof.Proofs
end

section
/-! PROOFS. The device command rows run as the CMD that sends them, RDATA as the CMD that is refused (R102, R124,
R148). -/

namespace Sys2Proof.Machine

theorem deviceCommands_spec :
    ∀ ic ∈ deviceCommands, commandByte ic.1 = some ic.2 ∧ requestWord ic.1 = requestWord (.cmd ic.2) := by
  decide

/-- R124: the same command byte with the same request word is the same op. -/
theorem exec_deviceCommand {i : Instr} {c : Byte} (h : (i, c) ∈ deviceCommands) (s : State) :
    exec i s = exec (.cmd c) s := by
  obtain ⟨hc, hw⟩ := deviceCommands_spec (i, c) h
  rw [exec_command hc, exec_command rfl, hw]

end Sys2Proof.Machine

namespace Sys2Proof.Proofs
open Sys2Proof.Machine

/-- Settles O17: the byte 0x01 is no legal command, and its operand check comes before every other. -/
theorem rdataIsNeverSent : Obligations.RdataIsNeverSent := fun s hh => by
  rw [exec_command rfl, sendCommand]
  exact congrArg Host.Outcome.next (checked_illegalArg hh)

/-- Settles O25: the device rows by their command bytes, the assembler by running it on the twelve lines. -/
theorem pseudoOpsExpand : Obligations.PseudoOpsExpand := by
  refine ⟨fun s ic h => exec_deviceCommand h s, fun s id val => ⟨rfl, rfl⟩, ?_⟩
  decide

end Sys2Proof.Proofs
end

section
/-! PROOFS. What the ops of the register protocol do (R140–R150): each passes its checks, so that it is its body, and the
body as updates is the next state that R140, R145 and R150 state. -/

namespace Sys2Proof.Machine

/-! ### The ops that pass their checks -/

/-- R37, R262, R265: a register access with legal ids proceeds in IDLE, CONFIGURED and CHSEL. -/
theorem proceeds_wregDev {id : BitVec 4} {data : List Byte} {s : State} (hh : halted s = false)
    (hlen : 1 ≤ data.length) (hlen' : data.length ≤ 4) (hids : id.toNat + data.length - 1 ≤ 10)
    (hst : s.pstate ∈ [.idle, .configured, .chsel]) : proceeds (.wregDev id data) s := by
  have hids' : id.toNat + (data.length - 1) ≤ 10 := by omega
  exact ⟨hh, by simp [wellFormed_wregDev, hlen, hlen'], hids', (iff_allowed rfl Iff.rfl).1 hst,
    not_countFull (by simp) (by simp) s⟩

theorem proceeds_rreg {id : BitVec 4} {s : State} (hh : halted s = false) (hid : id.toNat ≤ 10)
    (hst : s.pstate ∈ [.idle, .configured, .chsel]) : proceeds (.rreg id) s :=
  ⟨hh, rfl, hid, (iff_allowed rfl Iff.rfl).1 hst, not_countFull (by simp) (by simp) s⟩

/-- R148: a legal command byte in a state of its row. -/
theorem proceeds_command {i : Instr} {c : Byte} {s : State} (hc : commandByte i = some c) (hlegal : c ∈ legalCommands)
    (hh : halted s = false) (ha : allowed i s) : proceeds i s := by
  have hw : i.wellFormed = true := by cases i <;> cases hc <;> rfl
  exact ⟨hh, hw, (operandsLegal_command hc).2 hlegal, ha, not_countFull_command hc s⟩

/-! ### Whether a write covers MUX -/

theorem writesMux_eq_last (id : BitVec 4) (len : Nat) :
    writesMux id len = (decide (id.toNat ≤ 1) && decide (1 ≤ id.toNat + len - 1)) := by
  have h : 1 < id.toNat + len ↔ 1 ≤ id.toNat + len - 1 := by omega
  simp only [writesMux, h]

theorem writesMux_one (id : BitVec 4) : writesMux id 1 = (id == 1#4) := (muxChanging_wreg id 0#8).symm

/-- R140, R141: a checked write of registers in the map, with the one place where syncPending can change. -/
theorem exec_wregDev {id : BitVec 4} {data : List Byte} {s : State} (h : proceeds (.wregDev id data) s) :
    exec (.wregDev id data) s = .next
      { transferred (data.length + 2) (frameEvents s 0 (wregByte id :: countByte data.length :: data)) false s with
        syncPending := s.syncPending || writesMux id data.length, resp := some .ok } := by
  rw [exec_of_proceeds h, opBody, wregTx_next, Bool.or_comm]
  rfl

end Sys2Proof.Machine

namespace Sys2Proof.Proofs
open Sys2Proof.Machine

/-- Settles O22: the op is one write transaction, which sets syncPending if its last id reaches register 1. -/
theorem wregDevWritesConsecutiveRegisters : Obligations.WregDevWritesConsecutiveRegisters := by
  intro id data s hh hlen hlen' hids hst
  rw [exec_wregDev (proceeds_wregDev hh hlen hlen' hids hst), writesMux_eq_last]
  rfl

/-- Settles O21: WREG is the device write of one byte (R124). -/
theorem wregWritesOneRegister : Obligations.WregWritesOneRegister := by
  intro id val s hh hid hst
  have hwreg : exec (.wreg id val) s = exec (.wregDev id [val]) s := rfl
  have hp : proceeds (.wregDev id [val]) s := proceeds_wregDev hh le_rfl (by simp) hid hst
  rw [hwreg, exec_wregDev hp, List.length_singleton, writesMux_one]
  rfl

/-- Settles O23: both rows run the same read, whose third reply is the value read. -/
theorem rregReadsOneRegister : Obligations.RregReadsOneRegister := by
  intro id i s hi hh hid hst
  have hrow : exec i s = exec (.rreg id) s := by
    rcases List.mem_pair.1 hi with rfl | rfl <;> rfl
  rw [hrow, exec_of_proceeds (proceeds_rreg hh hid hst), opBody, rregTx_eq]
  rfl

/-- Settles O24: every op of a command byte is the one command transaction and its effect. -/
theorem commandEffects : Obligations.CommandEffects := by
  intro i c s hc hlegal hh ha
  rw [exec_of_proceeds (proceeds_command hc hlegal hh ha), opBody_command hc, cmdTx_next]
  rfl

end Sys2Proof.Proofs
end

section
/-! PROOFS. What the ops of the channel configurator do (R170–R182): each passes its checks, so that it is its body, and
the body as updates is the next state that R170, R174, R176 and R182 state. -/

namespace Sys2Proof.Machine

/-- R37, R262: an op that sends no command byte and needs no room in the count proceeds in the states of its row. -/
theorem proceeds_of_allowedStates {i : Instr} {s : State} (hh : halted s = false) (hw : i.wellFormed = true)
    (ho : operandsLegal i) (hst : s.pstate ∈ allowedStates i) (hc : commandByte i = none) (hr : i ≠ .rdsample true)
    (hu : ∀ v, i ≠ .stupd v) : proceeds i s :=
  ⟨hh, hw, ho, (iff_allowed hc Iff.rfl).1 hst, not_countFull hr hu s⟩

/-- R174: the burst starts at register 0 and covers MUX, so that syncPending is set. -/
theorem wregTx_configBurst (g : BitVec 3) (r : BitVec 4) (p : Params) (s : State) :
    wregTx 0#4 (configBurst p g r) s = setPending true (transferred 6
      (frameEvents s 0 [0x50#8, 0x03#8, 0x06#8, 0x08#8, g.setWidth 8, p.drateCode[r.toNat]]) false s) := by
  rw [wregTx_next, configFrame_eq]
  rfl

/-- R176: one write of MUX. -/
theorem wregTx_muxByte (ch : BitVec 4) (s : State) :
    wregTx 1#4 [muxByte ch] s = setPending true (transferred 3
      (frameEvents s 0 [0x51#8, 0x00#8, (ch.setWidth 8 <<< 4) ||| 0x08#8]) false s) := by
  rw [wregTx_next]
  rfl

/-- R149: SYNC arms, and changes nothing else beside the bus. -/
theorem cmdTx_sync (s : State) : cmdTx 0xFC#8 s = transferred 1 (frameEvents s 0 [0xFC#8]) true s := by
  rw [cmdTx_next]
  rfl

/-- R150: WAKEUP right after SYNC clears syncPending. -/
theorem cmdTx_wakeup_of_armed {s : State} (h : s.syncArmed = true) :
    cmdTx 0x00#8 s = setPending false (transferred 1 (frameEvents s 0 [0x00#8]) false s) := by
  have hp : pendingAfter 0x00#8 true s.syncPending = false := Bool.and_false _
  rw [cmdTx_next, h, hp]
  rfl

/-- R83, R103: two transactions, each with the delay after it, add up; the flag of the last one stays. -/
theorem delay_transferred_twice (m n : Nat) (evs evs' : List Event) (a b : Bool) (j k : DelayKind) (s : State) :
    delay k (transferred n evs' b (delay j (transferred m evs a s))) =
      transferred (m + n) (evs ++ .delay j :: evs' ++ [.delay k]) b s := by
  simp [delay, emit, transferred, BitVec.add_assoc, Nat.add_assoc, BitVec.ofNat_add]

/-- R182. -/
theorem syncWake_next (s : State) : syncWake s = respond .ok (setPending false
    (transferred 2 (opEvents .syncwake s) false s)) := by
  have harmed : (delay .syncGap (cmdTx 0xFC#8 s)).syncArmed = true := by rw [cmdTx_sync]; rfl
  have hpending (t : State) : delay .wakeGap (setPending false t) = setPending false (delay .wakeGap t) := rfl
  rw [syncWake, cmdTx_wakeup_of_armed harmed, frameEvents_delay, frameEvents_cmdTx, cmdTx_sync, hpending,
    delay_transferred_twice]
  rfl

end Sys2Proof.Machine

namespace Sys2Proof.Proofs
open Sys2Proof.Machine

/-- Settles O26: the identity read is the expected one, so that INIT takes its first branch. -/
theorem initAcceptsTheIdentity : Obligations.InitAcceptsTheIdentity := by
  intro s hh hst hid
  have hp : proceeds .init s := proceeds_of_allowedStates hh rfl nofun (by simp [allowedStates, hst]) rfl nofun nofun
  rw [exec_of_proceeds hp, opBody, identify_next, if_pos hid]
  rfl

/-- Settles O28: the burst's bytes are drawn after the wait, which draws no MISO byte. -/
theorem configWritesFourRegisters : Obligations.ConfigWritesFourRegisters := by
  intro g r s hh hg hst
  have hg7 : g.toNat ≠ 7 := by omega
  have hp : proceeds (.config g r) s := proceeds_of_allowedStates hh rfl hg7 hst rfl nofun nofun
  rw [exec_of_proceeds hp, opBody, configure_next, wregTx_configBurst, frameEvents_waited]
  rfl

/-- Settles O29: a channel up to 7 takes the branch with the write of MUX. -/
theorem selchSelectsTheChannel : Obligations.SelchSelectsTheChannel := by
  intro ch s hh hst hch
  have hp : proceeds (.selch ch) s := proceeds_of_allowedStates hh rfl nofun hst rfl nofun nofun
  rw [exec_of_proceeds hp, opBody, selectChannel_next, if_pos hch, wregTx_muxByte]
  rfl

/-- Settles O30: SYNC arms, the gap keeps it armed, and WAKEUP clears both. -/
theorem syncwakeClearsPending : Obligations.SyncwakeClearsPending := by
  intro s hh hst
  have hp : proceeds .syncwake s := proceeds_of_allowedStates hh rfl nofun hst rfl nofun nofun
  rw [exec_of_proceeds hp, opBody, syncWake_next]
  rfl

end Sys2Proof.Proofs
end

section
/-! PROOFS. What WAIT and RDSAMPLE do (R200–R211): both pass their checks, and the body as updates is the next state that
R202 and R211 state. `firstReady` is the first low poll of the levels, and a sample is a number in base 256 with a signed
first digit. -/

namespace Sys2Proof.Machine

/-! ### The ready wait -/

theorem firstReady_eq_some {s : State} {budget j : Nat} :
    firstReady s budget = some j ↔ drdyAt s j = false ∧ j < budget ∧ ∀ k < j, drdyAt s k = true := by
  simp [firstReady, List.find?_range_eq_some]

theorem firstReady_eq_none {s : State} {budget : Nat} :
    firstReady s budget = none ↔ ∀ k < budget, drdyAt s k = true := by
  simp [firstReady]

/-- R201: the count stays at its largest value. -/
theorem satInc_eq (c : Word) : satInc c = if c = 0xFFFFFFFF#32 then 0xFFFFFFFF#32 else c + 1#32 := by
  unfold satInc
  split <;> simp [*]

/-- R37, R202: WAIT is legal in every state. -/
theorem exec_wait {s : State} (hh : halted s = false) (budget : BitVec 24) : exec (.wait budget) s =
    .next (respond (waitedStatus budget.toNat s) (waited budget.toNat s)) := by
  have hp : proceeds (.wait budget) s :=
    proceeds_of_allowedStates hh rfl nofun ((true_iff_mem_allStates _).1 rfl) rfl nofun nofun
  rw [exec_of_proceeds hp, opBody, waitOp_next]

/-! ### Samples -/

/-- Two's complement: a set top bit of a byte counts −128, which is 256 less than it does without sign. -/
theorem byte_toInt (b : Byte) : b.toInt = b.toNat - (if b.getLsbD 7 then 256 else 0) := by
  rw [BitVec.toInt_eq_msb_cond, BitVec.msb_eq_getLsbD_last]
  split <;> simp [*]

/-- R211, R265: RDSAMPLE proceeds in CONT, with ACC only while the count has room. -/
theorem proceeds_rdsample {acc : Bool} {s : State} (hh : halted s = false) (hst : s.pstate = .cont)
    (hroom : acc = true → s.stCount ≠ 0xFFFFFFFF#32) : proceeds (.rdsample acc) s := by
  have ha : allowed (.rdsample acc) s := (iff_allowed rfl Iff.rfl).1 (by simp [allowedStates, hst])
  refine ⟨hh, rfl, nofun, ha, fun ⟨hfull, hop⟩ => ?_⟩
  rcases hop with hop | ⟨v, hop⟩
  · injection hop with hacc
    exact hroom hacc hfull
  · cases hop

end Sys2Proof.Machine

namespace Sys2Proof.Proofs
open Sys2Proof.Machine

/-- Settles O31: the levels fix what `firstReady` is, and it picks the branch of the ready wait. -/
theorem waitEndsAtTheFirstLowPoll : Obligations.WaitEndsAtTheFirstLowPoll := by
  intro budget s hh
  rw [exec_wait hh]
  refine ⟨fun j hj hlow hhigh => ?_, fun hhigh => ?_⟩
  · have hready : firstReady s budget.toNat = some j := firstReady_eq_some.2 ⟨hlow, hj, hhigh⟩
    simp only [waited, waitedStatus, waitEvents, hready]
    rfl
  · have hready : firstReady s budget.toNat = none := firstReady_eq_none.2 hhigh
    simp only [waited, waitedStatus, waitEvents, hready, satInc_eq, BitVec.ofNat_toNat]
    rfl

/-- Settles O32: of the three digits only the first is signed. -/
theorem decode24SignExtends : Obligations.Decode24SignExtends := by
  intro b0 b1 b2
  have hvalue : (decode24 b0 b1 b2).toInt = 2 ^ 8 * (2 ^ 8 * b0.toInt + b1.toNat) + b2.toNat := by
    rw [decode24, sext24_toInt, BitVec.toInt_append, BitVec.toInt_append]
    rfl
  refine ⟨?_, sext24_range (b0 ++ b1 ++ b2)⟩
  rw [hvalue, byte_toInt]
  split <;> omega

/-- Settles O33: the op is the one transaction of three bytes, with the sample that its replies make. -/
theorem rdsampleReadsThreeBytes : Obligations.RdsampleReadsThreeBytes := by
  intro s hh hst
  have hp : proceeds (.rdsample false) s := proceeds_rdsample hh hst (by simp)
  rw [exec_of_proceeds hp, opBody, readSample_next]
  rfl

/-- Settles O34: both ops make the same transaction, and the update reads no field that the response writes. -/
theorem rdsampleAccAlsoAccumulates : Obligations.RdsampleAccAlsoAccumulates := by
  intro s t hh hst hroom h
  rw [rdsampleReadsThreeBytes s hh hst] at h
  injection h with h
  subst h
  have hp : proceeds (.rdsample true) s := proceeds_rdsample hh hst fun _ => hroom
  rw [exec_of_proceeds hp, opBody, readSample_next]
  rfl

end Sys2Proof.Proofs
end

section
/-! PROOFS. timeoutCount (R201): an op makes at most one ready wait, so that its events hold at most one timeout, and its
run on the bus counts what they hold. -/

namespace Sys2Proof.Machine

theorem countTimeouts_frameEvents (s : State) (k : Nat) (bs : List Byte) : countTimeouts (frameEvents s k bs) = 0 := by
  obtain ⟨-, -, ht⟩ := xferEvents_bus s k 0 bs
  simpa [frameEvents, countTimeouts] using ht

theorem countTimeouts_waitEvents_le (s : State) (budget : Nat) : countTimeouts (waitEvents s budget) ≤ 1 := by
  obtain ⟨-, -, ht⟩ := waitEvents_whole s budget
  rw [ht]
  split <;> simp

/-- R103: only INIT, CONFIG and WAIT wait, and each of them once. -/
theorem countTimeouts_opEvents_le (i : Instr) (s : State) : countTimeouts (opEvents i s) ≤ 1 := by
  cases i using instr_cases with
  | command i c hc => rw [opEvents_command hc, countTimeouts_frameEvents]; exact Nat.zero_le 1
  | init =>
    obtain ⟨-, -, hread⟩ := readEvents_whole s 0#4
    rw [opEvents, countTimeouts_append, hread]
    exact countTimeouts_waitEvents_le s _
  | config g r =>
    rw [opEvents, countTimeouts_append, countTimeouts_frameEvents]
    exact countTimeouts_waitEvents_le s _
  | wait budget => exact countTimeouts_waitEvents_le s budget.toNat
  | selch ch =>
    rw [opEvents]
    split
    · rw [countTimeouts_frameEvents]; exact Nat.zero_le 1
    · exact Nat.zero_le 1
  | wregDev id data => rw [opEvents, countTimeouts_frameEvents]; exact Nat.zero_le 1
  | _ => exact Nat.zero_le 1

/-- R201: from s to t the count stays, or it goes up by one. -/
def TimeoutsUpByAtMostOne (s t : State) : Prop :=
  s.timeoutCount.toNat ≤ t.timeoutCount.toNat ∧ t.timeoutCount.toNat ≤ s.timeoutCount.toNat + 1

theorem TimeoutsUpByAtMostOne.of_eq {s t : State} (h : t.timeoutCount = s.timeoutCount) :
    TimeoutsUpByAtMostOne s t := by
  rw [TimeoutsUpByAtMostOne, h]
  exact ⟨le_rfl, Nat.le_succ _⟩

/-- The saturated sum of the count and at most one more timeout. -/
theorem timeoutsUpByAtMostOne_of_busRun {evs : List Event} {s t : State} (h : BusRun evs s t)
    (hevs : countTimeouts evs ≤ 1) : TimeoutsUpByAtMostOne s t := by
  have hlt := s.timeoutCount.isLt
  rw [TimeoutsUpByAtMostOne, h.timeouts]
  omega

theorem outcomes_timeouts {w : Word} {s t : State} (h : Outcomes w s t) : TimeoutsUpByAtMostOne s t := by
  cases h with
  | halted _ => exact .of_eq rfl
  | fault c _ => exact .of_eq rfl
  | ran _ hb =>
    obtain ⟨i, rfl⟩ := body_eq_opBody hb
    exact timeoutsUpByAtMostOne_of_busRun (opBody_busRun i s) (countTimeouts_opEvents_le i s)

/-- Beside reset, only the body of an op touches the count. -/
theorem step_timeouts {s t : State} (h : step s = .next t) (hne : ∀ rest, s.program ≠ .rst :: rest) :
    TimeoutsUpByAtMostOne s t := by
  rcases step_outcomes h with ⟨-, rfl⟩ | ⟨a, rest, hprog, ha⟩
  · exact .of_eq rfl
  · rcases hostAction_outcomes ha with ⟨rfl, -⟩ | ⟨k, -, rfl⟩ | ⟨-, w, hw⟩
    · exact absurd hprog (hne rest)
    · exact .of_eq rfl
    · exact (outcomes_timeouts hw :)

end Sys2Proof.Machine

namespace Sys2Proof.Proofs
open Sys2Proof.Machine

/-- Settles O45: every step but reset counts at most the one timeout of its op. -/
theorem timeoutCountNeverFalls : Obligations.TimeoutCountNeverFalls := fun _ _ h hne => step_timeouts h hne

end Sys2Proof.Proofs
end

section
/-! PROOFS. Binary64 operations whose exact result is a binary64 value (R14, R230): a finite pattern is what f64Round
answers for its own sign and magnitude, so that adding a zero and dividing by one change nothing, and x − x is +0. -/

namespace Sys2Proof.Machine

/-! ### A finite pattern is its own rounding -/

/-- A pattern is its three fields. -/
theorem f64Pack_fields (x : F64) : f64Pack (f64Sign x) (f64Exp x * 2 ^ 52 + f64Frac x) = x := by
  have hexp : f64Exp x < 2 ^ 11 := (x.extractLsb' 52 11).isLt
  have hfrac := f64Frac_lt x
  have hx := x.isLt
  apply BitVec.eq_of_toNat_eq
  rw [f64Pack_toNat (by omega), f64Sign, BitVec.getLsbD, Nat.testBit_eq_decide_div_mod_eq]
  simp only [f64Exp, f64Frac, BitVec.extractLsb'_toNat, Nat.shiftRight_eq_div_pow, decide_eq_true_eq]
  split <;> omega

/-- The unit in the last place of a magnitude is its scale. -/
theorem f64UlpExp_f64Mag (x : F64) : f64UlpExp (f64Mag x) = f64Scale x := by
  have hle : f64UlpExp (f64Mag x) ≤ f64Scale x := by
    refine f64UlpExp_le ?_
    rw [f64Mag, pow_add]
    exact Nat.mul_lt_mul_of_pos_right (f64Mant_lt x) (by positivity)
  by_cases hexp : f64Exp x = 0
  · have hscale : f64Scale x = 0 := by simp [f64Scale, hexp]
    omega
  · have hmant : 2 ^ 52 ≤ f64Mant x := by simp [f64Mant, hexp]
    have hmag : 2 ^ (52 + f64Scale x) ≤ f64Mag x := by
      rw [f64Mag, pow_add]
      exact Nat.mul_le_mul_right _ hmant
    have hexps := (Nat.pow_lt_pow_iff_right (a := 2) (by omega)).1 (hmag.trans_lt (lt_two_pow_f64UlpExp _))
    omega

theorem roundSig_f64Mag (x : F64) : roundSig (f64Mag x) 1 = f64Mant x := by
  have hpos : 0 < 2 ^ f64Scale x := by positivity
  rw [roundSig, roundUlp, Nat.div_one, f64UlpExp_f64Mag, one_mul]
  exact Nat.eq_of_mul_eq_mul_right hpos (roundHalfEven_mul_of_dvd hpos (Nat.dvd_mul_left _ _))

/-- The hidden bit counts as one in the exponent field. -/
theorem f64Scale_mul_add_f64Mant (x : F64) : f64Scale x * 2 ^ 52 + f64Mant x = f64Exp x * 2 ^ 52 + f64Frac x := by
  unfold f64Scale f64Mant
  split <;> omega

theorem f64Round_self {x : F64} (hx : f64IsFinite x = true) : f64Round (f64Sign x) (f64Mag x) 1 = x := by
  have hexp : f64Exp x < 2 ^ 11 := (x.extractLsb' 52 11).isLt
  have hne : f64Exp x ≠ 2047 := by simpa [f64IsFinite] using hx
  have hfrac := f64Frac_lt x
  have hlow : f64Exp x * 2 ^ 52 + f64Frac x < f64InfLow := by rw [f64InfLow]; omega
  rw [f64Round_eq, roundSig_f64Mag, roundUlp, Nat.div_one, f64UlpExp_f64Mag, f64Scale_mul_add_f64Mant, if_pos hlow,
    f64Pack_fields]

/-- Only the quotient counts. -/
theorem f64Round_mul_right (neg : Bool) (num den : Nat) {d : Nat} (hd : 0 < d) :
    f64Round neg (num * d) (den * d) = f64Round neg num den := by
  have hhalf (k : Nat) : roundHalfEven (num * d) (k * d) = roundHalfEven num k := by
    simp only [roundHalfEven, Nat.mul_div_mul_right _ _ hd, Nat.mul_mod_mul_right, ← mul_assoc,
      Nat.mul_lt_mul_right hd]
  simp only [f64Round, Nat.mul_div_mul_right _ _ hd, Nat.mul_right_comm den d, hhalf]

theorem f64Round_zero (neg : Bool) (den : Nat) : f64Round neg 0 den = f64Pack neg 0 := by
  simp [f64Round, f64UlpExp, roundHalfEven, f64InfLow]

/-! ### Zeros -/

theorem f64IsZero_pack_zero (neg : Bool) : f64IsZero (f64Pack neg 0) = true := by cases neg <;> decide

theorem f64IsFinite_of_zero {z : F64} (hz : f64IsZero z = true) : f64IsFinite z = true := by
  obtain ⟨hexp, -⟩ : f64Exp z = 0 ∧ f64Frac z = 0 := by simpa [f64IsZero] using hz
  simp [f64IsFinite, hexp]

theorem f64Mag_of_zero {z : F64} (hz : f64IsZero z = true) : f64Mag z = 0 := by
  obtain ⟨hexp, hfrac⟩ : f64Exp z = 0 ∧ f64Frac z = 0 := by simpa [f64IsZero] using hz
  simp [f64Mag, f64Mant, hexp, hfrac]

theorem f64Units_of_zero {z : F64} (hz : f64IsZero z = true) : f64Units z = 0 := f64Units_of_mag_zero (f64Mag_of_zero hz)

theorem f64IsFinite_of_not_inf {x : F64} (hnan : f64IsNaN x = false) (hinf : f64IsInf x = false) :
    f64IsFinite x = true := by
  by_contra hexp
  have hexp : f64Exp x = 2047 := by simpa [f64IsFinite] using hexp
  simp_all [f64IsNaN, f64IsInf]

/-- Of the two finite patterns with no units, one is −0. -/
theorem eq_zero_of_f64Units {x : F64} (hx : f64IsFinite x = true) (h0 : f64Units x = 0)
    (hneg : x ≠ 0x8000000000000000#64) : x = 0#64 := by
  have hmag : f64Mag x = 0 := by rw [← natAbs_f64Units, h0, Int.natAbs_zero]
  have hpack : f64Pack (f64Sign x) 0 = x := by rw [← f64Round_zero _ 1, ← hmag, f64Round_self hx]
  cases hsign : f64Sign x with
  | false => rw [← hpack, hsign]; rfl
  | true => exact absurd (by rw [← hpack, hsign]; rfl) hneg

theorem f64Sign_of_units_ne_zero {x : F64} (h0 : f64Units x ≠ 0) : f64Sign x = decide (f64Units x < 0) := by
  cases hsign : f64Sign x with
  | false => simp [f64Units, hsign]
  | true =>
    have hmag : f64Mag x ≠ 0 := fun h => h0 (f64Units_of_mag_zero h)
    simp [f64Units, hsign, Nat.pos_of_ne_zero hmag]

/-- R14: a sum with a zero of either sign. Only −0 can become another pattern, in −0 + +0 = +0. -/
theorem f64Add_zero_right {x z : F64} (hz : f64IsZero z = true) (hnan : f64IsNaN x = false)
    (hneg : x ≠ 0x8000000000000000#64) : f64Add x z = x := by
  have hzfin := f64IsFinite_of_zero hz
  cases hinf : f64IsInf x with
  | true => simp [f64Add, hnan, hinf, f64IsNaN_of_finite hzfin, f64IsInf_of_finite hzfin]
  | false =>
    have hx := f64IsFinite_of_not_inf hnan hinf
    rw [f64Add_of_finite hx hzfin, f64Units_of_zero hz, add_zero]
    split
    · rename_i h0
      rw [eq_zero_of_f64Units hx h0 hneg]
      rfl
    · rename_i h0
      rw [← f64Sign_of_units_ne_zero h0, natAbs_f64Units, f64Round_self hx]

theorem f64Add_comm_of_finite {x y : F64} (hx : f64IsFinite x = true) (hy : f64IsFinite y = true) :
    f64Add x y = f64Add y x := by
  have hsign : (f64Sign x && f64Sign y && f64IsZero x && f64IsZero y) =
      (f64Sign y && f64Sign x && f64IsZero y && f64IsZero x) := by
    rw [Bool.and_comm (f64Sign x), Bool.and_right_comm]
  rw [f64Add_of_finite hx hy, f64Add_of_finite hy hx, add_comm, hsign]

theorem f64IsZero_mul_zero {x z : F64} (hx : f64IsFinite x = true) (hz : f64IsZero z = true) :
    f64IsZero (f64Mul x z) = true := by
  rw [f64Mul_of_finite hx (f64IsFinite_of_zero hz), f64Mag_of_zero hz, mul_zero, f64Round_zero, f64IsZero_pack_zero]

theorem f64IsZero_zero_div {z y : F64} (hz : f64IsZero z = true) (hy : f64IsFinite y = true) (h0 : f64Units y ≠ 0) :
    f64IsZero (f64Div z y) = true := by
  rw [f64Div_of_finite (f64IsFinite_of_zero hz) hy h0, f64Mag_of_zero hz, zero_mul, f64Round_zero,
    f64IsZero_pack_zero]

/-! ### Differences -/

theorem f64Exp_negate (x : F64) : f64Exp (f64Negate x) = f64Exp x := by
  have h : (f64Negate x).extractLsb' 52 11 = x.extractLsb' 52 11 := by
    rw [f64Negate, BitVec.extractLsb'_xor]
    exact BitVec.xor_zero
  rw [f64Exp, h, f64Exp]

theorem f64Frac_negate (x : F64) : f64Frac (f64Negate x) = f64Frac x := by
  have h : (f64Negate x).extractLsb' 0 52 = x.extractLsb' 0 52 := by
    rw [f64Negate, BitVec.extractLsb'_xor]
    exact BitVec.xor_zero
  rw [f64Frac, h, f64Frac]

theorem f64Sign_negate (x : F64) : f64Sign (f64Negate x) = !f64Sign x := by
  simp [f64Sign, f64Negate]

theorem f64Units_negate (x : F64) : f64Units (f64Negate x) = -f64Units x := by
  have hmag : f64Mag (f64Negate x) = f64Mag x := by
    simp only [f64Mag, f64Mant, f64Scale, f64Exp_negate, f64Frac_negate]
  rw [f64Units, f64Units, hmag, f64Sign_negate]
  cases f64Sign x <;> simp

/-- R14: x − x is +0, for +0 and −0 too. -/
theorem f64Sub_self {x : F64} (hx : f64IsFinite x = true) : f64Sub x x = 0#64 := by
  have hneg : f64IsFinite (f64Negate x) = true := by rwa [f64IsFinite, f64Exp_negate]
  rw [f64Sub, f64Add_of_finite hx hneg, f64Units_negate, add_neg_cancel, if_pos rfl, f64Sign_negate, Bool.and_not_self]
  rfl

/-! ### Integers -/

/-- An integer that converts exactly is no −0. -/
theorem f64OfInt_ne_neg_zero {i : ℤ} (hi : i.natAbs ≤ 2 ^ 53) : f64OfInt i ≠ 0x8000000000000000#64 := by
  obtain ⟨-, hunits⟩ := Proofs.integersConvertExactly i hi
  intro h
  have hi0 : i = 0 := by
    have hz : f64Units (f64OfInt i) = 0 := by rw [h]; exact f64Units_of_zero (by decide)
    rw [hz] at hunits
    exact (mul_eq_zero.1 hunits.symm).resolve_right (by positivity)
  rw [hi0, f64OfInt, Int.natAbs_zero, Nat.zero_mul, f64Round_zero] at h
  exact absurd h (by decide)

/-- R14: x /f 1. -/
theorem f64Div_one {x : F64} (hx : f64IsFinite x = true) : f64Div x (f64OfInt 1) = x := by
  obtain ⟨hfin, hunits⟩ := Proofs.integersConvertExactly 1 (by norm_num)
  have hpos : 0 < f64Units (f64OfInt 1) := by rw [hunits]; positivity
  have hmag : f64Mag (f64OfInt 1) = 1 * f64One := by
    rw [one_mul, ← Nat.cast_inj (R := ℤ), f64Mag_of_pos hpos, hunits, one_mul, f64One_cast]
  rw [f64Div_of_finite hx hfin hpos.ne', f64Sign_of_pos hpos, Bool.bne_false, hmag,
    f64Round_mul_right _ _ _ (by rw [f64One_eq]; positivity), f64Round_self hx]

end Sys2Proof.Machine
end

section
/-! PROOFS. What STCLR, STUPD and STFIN do (R231–R233): each passes its checks, and the body is the next state of its
rule. The two corner cases of R231 follow from the operations that change nothing. -/

namespace Sys2Proof.Machine

/-! ### The ops are their bodies -/

theorem exec_stclr {s : State} (hh : halted s = false) : exec .stclr s = .next (respond .ok (clearStats s)) :=
  exec_of_proceeds (proceeds_of_allowedStates hh rfl nofun ((true_iff_mem_allStates _).1 rfl) rfl nofun nofun)

theorem exec_stfin {s : State} (hh : halted s = false) : exec .stfin s = .next (respond .ok (finalize s)) :=
  exec_of_proceeds (proceeds_of_allowedStates hh rfl nofun ((true_iff_mem_allStates _).1 rfl) rfl nofun nofun)

/-- R37, R265: STUPD is legal in every state, while the count has room. -/
theorem exec_stupd (v : BitVec 24) {s : State} (hh : halted s = false) (hroom : s.stCount ≠ 0xFFFFFFFF#32) :
    exec (.stupd v) s = .next (respond .ok (accumulate (sext24 v) s)) :=
  exec_of_proceeds ⟨hh, rfl, nofun, (iff_allowed rfl Iff.rfl).1 ((true_iff_mem_allStates _).1 rfl),
    fun ⟨hfull, _⟩ => hroom hfull⟩

/-! ### The update, field by field -/

theorem accumulate_stMean (x : Word) (s : State) : (accumulate x s).stMean =
    f64Add s.stMean (f64Div (f64Sub (f64OfInt x.toInt) s.stMean) (f64OfInt (s.stCount + 1#32).toNat)) := rfl

/-- R231: the second factor is taken from the new mean. -/
theorem accumulate_stM2 (x : Word) (s : State) : (accumulate x s).stM2 =
    f64Add s.stM2 (f64Mul (f64Sub (f64OfInt x.toInt) s.stMean) (f64Sub (f64OfInt x.toInt) (accumulate x s).stMean)) :=
  rfl

theorem accumulate_of_empty {s : State} (hcount : s.stCount = 0#32) (x : Word) : accumulate x s =
    { s with stCount := 1#32, stMean := (accumulate x s).stMean, stM2 := (accumulate x s).stM2,
             stMin := x, stMax := x } := by
  simp [accumulate, hcount]

/-! ### The counts do not wrap -/

theorem toNat_add_one_of_room {c : Word} (hroom : c ≠ 0xFFFFFFFF#32) : (c + 1#32).toNat = c.toNat + 1 := by bv_omega

theorem f64IsZero_zero_div_count {c : Word} (hroom : c ≠ 0xFFFFFFFF#32) :
    f64IsZero (f64Div 0#64 (f64OfInt (c + 1#32).toNat)) = true := by
  have hlt := (c + 1#32).isLt
  obtain ⟨hfin, hunits⟩ := Proofs.integersConvertExactly (c + 1#32).toNat (by omega)
  have hpos : 0 < f64Units (f64OfInt (c + 1#32).toNat) := by
    rw [hunits, toNat_add_one_of_room hroom]
    positivity
  exact f64IsZero_zero_div (by decide) hfin hpos.ne'

theorem sampleVariance_eq (n : Word) (m2 : F64) : sampleVariance n m2 =
    if 2 ≤ n.toNat then f64Div m2 (f64OfInt (n.toNat - 1 : Nat)) else f64QNaN := by
  unfold sampleVariance
  split
  · have hsub : (n - 1#32).toNat = n.toNat - 1 := by bv_omega
    rw [hsub]
  · rfl

/-! ### A sample as a binary64 value -/

theorem natAbs_sample_le (v : BitVec 24) : v.toInt.natAbs ≤ 2 ^ 53 := by
  have hlow := BitVec.le_toInt v
  have hhigh := BitVec.toInt_lt (x := v)
  omega

theorem f64IsFinite_sample (v : BitVec 24) : f64IsFinite (f64OfInt v.toInt) = true :=
  (Proofs.integersConvertExactly _ (natAbs_sample_le v)).1

theorem sample_add_zero (v : BitVec 24) {z : F64} (hz : f64IsZero z = true) :
    f64Add (f64OfInt v.toInt) z = f64OfInt v.toInt :=
  f64Add_zero_right hz (f64IsNaN_of_finite (f64IsFinite_sample v)) (f64OfInt_ne_neg_zero (natAbs_sample_le v))

theorem zero_add_sample (v : BitVec 24) : f64Add 0#64 (f64OfInt v.toInt) = f64OfInt v.toInt := by
  rw [f64Add_comm_of_finite (by decide) (f64IsFinite_sample v)]
  exact sample_add_zero v (by decide)

theorem sample_sub_zero (v : BitVec 24) : f64Sub (f64OfInt v.toInt) 0#64 = f64OfInt v.toInt :=
  sample_add_zero v (by decide)

end Sys2Proof.Machine

namespace Sys2Proof.Proofs
open Sys2Proof.Machine

/-- Settles O37: the body writes the five running fields. -/
theorem stclrClearsTheRunningFields : Obligations.StclrClearsTheRunningFields := fun _ hh => exec_stclr hh

/-- Settles O35: with room the new count is one more as a number, and the compares are those of i32. -/
theorem stupdIsTheWelfordUpdate : Obligations.StupdIsTheWelfordUpdate := by
  intro v s hh hroom
  rw [exec_stupd v hh hroom]
  simp only [accumulate, toNat_add_one_of_room hroom, BitVec.slt_iff_toInt_lt]
  rfl

/-- Settles O36: from two samples on, the divisor n − 1 is one less as a number. -/
theorem stfinTakesTheSnapshot : Obligations.StfinTakesTheSnapshot := by
  intro s hh
  rw [exec_stfin hh, finalize, sampleVariance_eq]
  by_cases h2 : 2 ≤ s.stCount.toNat
  · simp only [if_pos h2]
    rfl
  · simp only [if_neg h2]
    rfl

/-- Settles O59: delta is the sample, its quotient by 1 and the sum with +0 are the sample again, and the second factor
of the product is +0. -/
theorem firstUpdateIsExact : Obligations.FirstUpdateIsExact := by
  intro v s hh hcount hmean hm2
  have hfin := f64IsFinite_sample v
  have hroom : s.stCount ≠ 0xFFFFFFFF#32 := by rw [hcount]; decide
  have hone : f64OfInt (0#32 + 1#32).toNat = f64OfInt 1 := rfl
  have hmul : f64IsZero (f64Mul (f64OfInt v.toInt) 0#64) = true := f64IsZero_mul_zero hfin (by decide)
  have hmean' : (accumulate (sext24 v) s).stMean = f64OfInt v.toInt := by
    rw [accumulate_stMean, sext24_toInt, hmean, hcount, sample_sub_zero, hone, f64Div_one hfin, zero_add_sample]
  have hm2' : (accumulate (sext24 v) s).stM2 = 0#64 := by
    rw [accumulate_stM2, sext24_toInt, hmean', hmean, hm2, sample_sub_zero, f64Sub_self hfin,
      f64Add_zero_right hmul (by decide) (by decide)]
  rw [exec_stupd v hh hroom, accumulate_of_empty hcount, hmean', hm2']
  rfl

/-- Settles O60: delta is +0, so that the mean takes a zero, and m2 the product with a zero. -/
theorem equalSampleLeavesTheSpread : Obligations.EqualSampleLeavesTheSpread := by
  intro v s t hh hroom hmean hnan hneg h
  rw [exec_stupd v hh hroom] at h
  injection h with h
  subst h
  have hdelta : f64Sub (f64OfInt v.toInt) (f64OfInt v.toInt) = 0#64 := f64Sub_self (f64IsFinite_sample v)
  have hmul : f64IsZero (f64Mul 0#64 0#64) = true := f64IsZero_mul_zero (by decide) (by decide)
  have hmean' : (accumulate (sext24 v) s).stMean = s.stMean := by
    rw [accumulate_stMean, sext24_toInt, hmean, hdelta, sample_add_zero v (f64IsZero_zero_div_count hroom)]
  have hm2' : (accumulate (sext24 v) s).stM2 = s.stM2 := by
    rw [accumulate_stM2, sext24_toInt, hmean', hmean, hdelta, f64Add_zero_right hmul hnan hneg]
  exact ⟨hmean', hm2'⟩

end Sys2Proof.Proofs
end

section
/-! PROOFS. The exceptions (R260–R275): what a halted engine does, and the faults beside ORDER: ILLEGAL_OP of a word
that does not decode, ILLEGAL_ARG and COUNT_OVF of the checks, IDENTITY of INIT's body. -/

namespace Sys2Proof.Machine

/-! ### A halted engine -/

/-- R267: the halted check comes before every other. -/
theorem exec_of_halted {i : Instr} {s : State} (hw : i.wellFormed = true) (hh : halted s = true) :
    exec i s = .next (respond .halted s) := by
  rw [exec_eq_checked hw, checked_halted hh]

/-- R266: a word or frame presented to a halted engine has one answer, whether it decodes or not. -/
theorem hostAction_present_of_halted (e : Encoded) {s : State} (hh : halted s = true) :
    hostAction (presentAction e) s = .next (respond .halted s) := by
  have hexec : ∀ i, decode e = .ok i → exec i s = .next (respond .halted s) := fun i hd =>
    exec_of_halted (Proofs.acceptedPresentationIsTheEncoding.1 e i hd).2 hh
  cases e with
  | word w =>
    simp only [presentAction, hostAction, runWord]
    split
    · exact hexec _ ‹_›
    · rw [if_pos hh]
  | frame bytes =>
    simp only [presentAction, hostAction, runFrame]
    split
    · exact hexec _ ‹_›
    · rw [if_pos hh]

/-- R266: of the three outcomes of an op, a halted engine has the first. -/
theorem outcomes_of_halted {w : Word} {s t : State} (h : Outcomes w s t) (hh : halted s = true) :
    t = respond .halted s := by
  cases h with
  | halted _ => rfl
  | fault _ hrun => exact absurd hh (by simp [hrun])
  | ran hrun _ => exact absurd hh (by simp [hrun])

/-! ### A word that is no instruction -/

/-- R122: what meets no row of the opcode map does not decode. -/
theorem decodeWord_of_not_legalWord {w : Word} (hw : legalWord w = false) : ∃ err, decodeWord w = .error err := by
  cases hd : decodeWord w with
  | error err => exact ⟨err, rfl⟩
  | ok i =>
    have hlegal : legalWord w = true := legalWord_of_encode (encode_of_decodeWord hd)
    exact absurd hlegal (by simp [hw])

/-- R261: such a word is answered HALTED or raises ILLEGAL_OP. -/
theorem runWord_of_not_legalWord {w : Word} (hw : legalWord w = false) (s : State) :
    runWord w s = .next (if halted s then respond .halted s else raise .illegalOp w s) := by
  obtain ⟨err, hd⟩ := decodeWord_of_not_legalWord hw
  simp only [runWord, decode, hd]

/-! ### The faults of the operand and count checks -/

/-- R262: the operand check comes before the state and the count. -/
theorem exec_of_not_operandsLegal {i : Instr} {s : State} (hw : i.wellFormed = true) (hh : halted s = false)
    (ho : ¬ operandsLegal i) : exec i s = .next (raise .illegalArg (requestWord i) s) := by
  simp [exec_eq_checked hw, ho, checked_illegalArg hh]

/-- R265: the count check is the last one before the body. -/
theorem exec_of_countFull {i : Instr} {s : State} (hw : i.wellFormed = true) (hh : halted s = false)
    (ho : operandsLegal i) (ha : allowed i s) (hc : countFull i s) :
    exec i s = .next (raise .countOvf (requestWord i) s) := by
  simp [exec_eq_checked hw, ho, ha, hc, checked_countOvf hh]

/-- R265: every operand of the two ops that can find the count full is legal. -/
theorem wellFormed_and_legal_of_countFull {i : Instr} {s : State} (hc : countFull i s) :
    i.wellFormed = true ∧ operandsLegal i := by
  obtain ⟨-, rfl | ⟨v, rfl⟩⟩ := hc
  · exact ⟨rfl, nofun⟩
  · exact ⟨rfl, nofun⟩

end Sys2Proof.Machine

namespace Sys2Proof.Proofs
open Sys2Proof.Machine

/-- Settles O6: the word meets no row of the opcode map, so that it does not decode. -/
theorem illegalWordTakesIllegalOp : Obligations.IllegalWordTakesIllegalOp := by
  intro s w rest hs hw
  rw [step_cons hs, hostAction, runWord_of_not_legalWord hw]
  rfl

/-- Settles O7: what decodes finds the halted check first, and what does not is answered HALTED too. -/
theorem haltedEngineChangesNothing : Obligations.HaltedEngineChangesNothing := by
  intro s e rest hs hh
  rw [step_cons hs]
  exact hostAction_present_of_halted e hh

/-- Settles O8: a step but reset waits, reads a result register, or runs an op, which answers HALTED. -/
theorem onlyResetLeavesHalt : Obligations.OnlyResetLeavesHalt := by
  intro s t hh h hne
  rcases step_outcomes h with ⟨-, rfl⟩ | ⟨a, rest, hprog, ha⟩
  · exact ⟨hh, rfl⟩
  · rcases hostAction_outcomes ha with ⟨rfl, -⟩ | ⟨k, -, rfl⟩ | ⟨-, w, hw⟩
    · exact absurd hprog (hne rest)
    · exact ⟨hh, rfl⟩
    · obtain rfl := outcomes_of_halted hw hh
      exact ⟨hh, rfl⟩

/-- Settles O14: the operand check comes before the state check; it refuses no channel of SELCH, whose body does nothing
for one above 7. -/
theorem illegalOperandTakesIllegalArg : Obligations.IllegalOperandTakesIllegalArg := by
  refine ⟨fun i s hw hh ho => exec_of_not_operandsLegal hw hh ho, fun ch s hh hst hch => ?_⟩
  have hp : proceeds (.selch ch) s := proceeds_of_allowedStates hh rfl nofun hst rfl nofun nofun
  rw [exec_of_proceeds hp, opBody, selectChannel_next, if_neg (by omega)]
  rfl

/-- Settles O16: both ops pass the checks before the count's, which keeps the body from running. -/
theorem fullCountTakesCountOvf : Obligations.FullCountTakesCountOvf := by
  intro i s hh ha hc
  obtain ⟨hw, ho⟩ := wellFormed_and_legal_of_countFull hc
  exact exec_of_countFull hw hh ho ha hc

/-- Settles O27: the identity read is not the expected one, so that INIT raises the fault after its read. -/
theorem initTakesIdentity : Obligations.InitTakesIdentity := by
  intro s hh hst hid
  have hp : proceeds .init s := proceeds_of_allowedStates hh rfl nofun (by simp [allowedStates, hst]) rfl nofun nofun
  have hf : (initRead s).faults = s.faults := by simp [initRead]
  rw [exec_of_proceeds hp, opBody_init_of_ne hid, raise, hf]
  rfl

end Sys2Proof.Proofs
end

section
/-! PROOFS. The polls of a step (R200, R306): only a ready wait polls, and it stays within its budget of 24 bits; an op
makes at most one ready wait. -/

namespace Sys2Proof.Machine

theorem countPolls_append (as bs : List Event) : countPolls (as ++ bs) = countPolls as + countPolls bs :=
  List.countP_append

theorem countPolls_xferEvents (s : State) (k : Nat) (bs : List Byte) : countPolls (xferEvents s k bs) = 0 := by
  induction bs generalizing k with
  | nil => rfl
  | cons b bs ih => simpa [xferEvents, countPolls] using ih (k + 1)

theorem countPolls_frameEvents (s : State) (k : Nat) (bs : List Byte) : countPolls (frameEvents s k bs) = 0 := by
  simpa [frameEvents, countPolls] using countPolls_xferEvents s k bs

theorem countPolls_replicate (n : Nat) (level : Bool) : countPolls (List.replicate n (.poll level)) = n := by
  simp [countPolls, List.countP_replicate]

/-- The shape of both rows of `waitEvents`. -/
theorem countPolls_settled (n : Nat) (e : Event) :
    countPolls (.delay .settle :: List.replicate n (.poll true) ++ [e]) = n + countPolls [e] := by
  rw [countPolls_append]
  exact congrArg (· + countPolls [e]) (countPolls_replicate n true)

/-- R200: the first low poll is one of the budget's. -/
theorem countPolls_waitEvents_le (s : State) (budget : Nat) : countPolls (waitEvents s budget) ≤ budget := by
  unfold waitEvents
  cases hready : firstReady s budget with
  | some j =>
    obtain ⟨-, hj, -⟩ := firstReady_eq_some.1 hready
    exact (countPolls_settled j (.poll false)).trans_le hj
  | none => exact (countPolls_settled budget .timeout).le

/-- R200: a budget has 24 bits. -/
theorem countPolls_waitEvents_lt (s : State) (budget : BitVec 24) :
    countPolls (waitEvents s budget.toNat) < 2 ^ 24 :=
  (countPolls_waitEvents_le s _).trans_lt budget.isLt

/-- R103: only INIT, CONFIG and WAIT wait, and each of them once. -/
theorem countPolls_opEvents_lt (i : Instr) (s : State) : countPolls (opEvents i s) < 2 ^ 24 := by
  cases i using instr_cases with
  | command i c hc => rw [opEvents_command hc, countPolls_frameEvents]; decide
  | init =>
    have hread : countPolls (readEvents s 0#4) = 0 := rfl
    rw [opEvents, countPolls_append, hread]
    exact countPolls_waitEvents_lt s _
  | config g r =>
    rw [opEvents, countPolls_append, countPolls_frameEvents]
    exact countPolls_waitEvents_lt s _
  | wait budget => exact countPolls_waitEvents_lt s budget
  | selch ch =>
    rw [opEvents]
    split
    · rw [countPolls_frameEvents]; decide
    · decide
  | wregDev id data => rw [opEvents, countPolls_frameEvents]; decide
  | _ => exact Nat.two_pow_pos 24

theorem outcomes_polls {w : Word} {s t : State} (h : Outcomes w s t) :
    countPolls t.trace ≤ countPolls s.trace + 16777215 := by
  cases h with
  | halted _ => exact Nat.le_add_right _ _
  | fault c _ => exact Nat.le_add_right _ _
  | ran _ hb =>
    obtain ⟨i, rfl⟩ := body_eq_opBody hb
    rw [(opBody_busRun i s).trace, countPolls_append]
    exact Nat.add_le_add_left (Nat.le_of_lt_succ (countPolls_opEvents_lt i s)) _

end Sys2Proof.Machine

namespace Sys2Proof.Proofs
open Sys2Proof.Machine

/-- Settles O46: beside the body of an op, a step keeps the trace or, by reset, empties it. -/
theorem everyStepPollsBoundedly : Obligations.EveryStepPollsBoundedly := by
  intro s t h
  rcases step_outcomes h with ⟨-, rfl⟩ | ⟨a, rest, -, ha⟩
  · exact Nat.le_add_right _ _
  · rcases hostAction_outcomes ha with ⟨-, rfl⟩ | ⟨k, -, rfl⟩ | ⟨-, w, hw⟩
    · exact Nat.zero_le _
    · exact Nat.le_add_right _ _
    · exact (outcomes_polls hw :)

end Sys2Proof.Proofs
end

section
/-! PROOFS. How continuous mode is entered (R34, R35, R297, R299): only an op that passes its checks moves pstate, only
the row of the command byte 0x03 moves it to CONT, and one word and one frame present that op. -/

namespace Sys2Proof.Machine

/-- R267: an op either passes every check and is its body, or answers HALTED, or takes a fault. -/
theorem exec_proceeds_or_stops {i : Instr} {s t : State} (h : exec i s = .next t) :
    (proceeds i s ∧ t = opBody i s) ∨ t = respond .halted s ∨ ∃ k, t = raise k (requestWord i) s := by
  have hw := wellFormed_of_exec h
  have eq_of_exec : ∀ {u}, exec i s = .next u → t = u := fun hu => by injection h.symm.trans hu
  cases hh : halted s with
  | true => exact .inr (.inl (eq_of_exec (exec_of_halted hw hh)))
  | false =>
    by_cases ho : operandsLegal i
    · by_cases ha : allowed i s
      · by_cases hc : countFull i s
        · exact .inr (.inr ⟨_, eq_of_exec (exec_of_countFull hw hh ho ha hc)⟩)
        · have hp : proceeds i s := ⟨hh, hw, ho, ha, hc⟩
          exact .inl ⟨hp, eq_of_exec (exec_of_proceeds hp)⟩
      · exact .inr (.inr ⟨_, eq_of_exec (exec_of_not_allowed hw hh ho ha)⟩)
    · exact .inr (.inr ⟨_, eq_of_exec (exec_of_not_operandsLegal hw hh ho)⟩)

/-- R34: the one row of the transition table that leads to CONT. -/
theorem cont_mem_transitions {i : Instr} {p : PState} (h : .cont ∈ transitions i p) :
    commandByte i = some 0x03#8 ∧ p = .chsel := by
  cases i using instr_cases with
  | command i c hc =>
    rw [transitions_command hc, commandTransitions] at h
    split_ifs at h with h3
    · obtain ⟨rfl, hp⟩ := h3
      exact ⟨hc, hp⟩
    all_goals simp at h
  | selch ch => cases p <;> simp [transitions, commandByte] at h
  | _ => cases p <;> simp [transitions, commandByte] at h

/-- R34, R35: what an op needs to enter CONT. -/
theorem exec_enters_cont {i : Instr} {s t : State} (h : exec i s = .next t) (hs : s.pstate ≠ .cont)
    (ht : t.pstate = .cont) : proceeds i s ∧ commandByte i = some 0x03#8 ∧ s.pstate = .chsel := by
  rcases exec_proceeds_or_stops h with ⟨hp, rfl⟩ | rfl | ⟨k, rfl⟩
  · rw [opBody_pstate (allowed_of_proceeds hp)] at ht
    split at ht
    · exact absurd ht hs
    · refine ⟨hp, cont_mem_transitions ?_⟩
      cases hhead : (transitions i s.pstate).head? with
      | none => exact absurd (by simpa [hhead] using ht) hs
      | some q =>
        obtain rfl : q = .cont := by simpa [hhead] using ht
        exact List.mem_of_head? hhead
  · exact absurd ht hs
  · exact absurd ht hs

/-- R122: what is presented is the encoding of what it decodes to. -/
theorem presentAction_encode {e : Encoded} {i : Instr} (h : decode e = .ok i) :
    presentAction e = presentAction (encode i) := by
  obtain ⟨he, -⟩ := Proofs.acceptedPresentationIsTheEncoding.1 e i h
  rw [he]

/-- R31: beside reset, a host action moves pstate only by the instruction that it presents. -/
theorem hostAction_moves_pstate {a : HostAction} {s t : State} (h : hostAction a s = .next t) (ha : a ≠ .rst)
    (hp : t.pstate ≠ s.pstate) : ∃ i, a = presentAction (encode i) ∧ exec i s = .next t := by
  cases a with
  | rst => exact absurd rfl ha
  | read k =>
    injection h with h
    exact absurd (h ▸ rfl) hp
  | issue w =>
    simp only [hostAction, runWord] at h
    split at h
    · exact ⟨_, presentAction_encode (e := .word w) ‹_›, h⟩
    · injection h with h
      subst h
      split at hp <;> exact absurd rfl hp
  | frame bytes =>
    simp only [hostAction, runFrame] at h
    split at h
    · exact ⟨_, presentAction_encode (e := .frame bytes) ‹_›, h⟩
    · split at h
      · injection h with h
        exact absurd (h ▸ rfl) hp
      · cases h

/-- R124, R102: the two instructions that send the command byte 0x03, as the host presents them. -/
theorem presentAction_of_rdatac {i : Instr} (hc : commandByte i = some 0x03#8) :
    presentAction (encode i) = .issue 0x04000003#32 ∨ presentAction (encode i) = .frame [0x03#8] := by
  cases i with
  | cmd c =>
    obtain rfl : c = 0x03#8 := by injection hc
    exact .inl (by decide)
  | rdatac => exact .inr (by decide)
  | _ => simp [commandByte] at hc

end Sys2Proof.Machine

namespace Sys2Proof.Proofs
open Sys2Proof.Machine

/-- Settles O47: an op that enters CONT passed the check of syncPending, and is presented by one word or one frame. -/
theorem continuousModeIsEnteredOnlySynced : Obligations.ContinuousModeIsEnteredOnlySynced := by
  intro s t h hs ht
  rcases step_outcomes h with ⟨-, rfl⟩ | ⟨a, rest, hprog, ha⟩
  · exact absurd ht hs
  · have hrst : a ≠ .rst := by
      rintro rfl
      injection ha with ha
      rw [← ha] at ht
      cases ht
    obtain ⟨i, rfl, hexec⟩ := hostAction_moves_pstate ha hrst (fun hp => hs (hp.symm.trans ht))
    obtain ⟨⟨hh, -, -, ⟨-, hpending⟩, -⟩, hc, hchsel⟩ := exec_enters_cont hexec hs ht
    refine ⟨hchsel, hpending hc, hh, rest, ?_⟩
    rcases presentAction_of_rdatac hc with hpresent | hpresent
    · exact .inl (hpresent ▸ hprog)
    · exact .inr (hpresent ▸ hprog)

end Sys2Proof.Proofs
end

section
/-! PROOFS. Reset (R290, R291): its fields, and the invariants there. -/

namespace Sys2Proof.Machine

theorem reset_resetFields : resetFields State.reset := by simp [resetFields, State.reset]

/-- R290: `rst` differs from power-on only in fields that are not the engine's. -/
theorem engineReset_resetFields (s : State) : resetFields (engineReset s) := reset_resetFields

end Sys2Proof.Machine

namespace Sys2Proof.Proofs
open Sys2Proof.Machine

/-- Settles O9: a step that takes `rst` is the engine reset. -/
theorem resetRestoresEveryField : Obligations.ResetRestoresEveryField :=
  ⟨reset_resetFields, fun _ _ hs => ⟨_, step_cons hs, engineReset_resetFields _⟩⟩

/-- Settles O49: the pins are high, the trace is empty, nothing is configured, no fault is set, no sample was taken. -/
theorem resetMeetsTheInvariants : Obligations.ResetMeetsTheInvariants := by
  refine ⟨⟨rfl, rfl, rfl⟩, ⟨rfl, rfl⟩, ?_, ⟨.head _, fun _ => rfl⟩, ?_⟩
  · simp [protocolInv, State.reset]
  · simp [statsInv, sampleRange, State.reset]

end Sys2Proof.Proofs
end
